-- ==== Sys2Proof/Word.lean ====
section
/-! DEFINITION. The widths of spec/: every value of the block is an unsigned bit field (00_scope.md R9, R11). -/

namespace Sys2Proof

/-- An 8-bit container: the operand ports `a`, `b` and the result ports `y0`, `y1` (10_state.md R14). -/
abbrev Byte := BitVec 8

/-- A 4-bit value whose most significant bit is `d1` (00_scope.md R8). -/
abbrev Nibble := BitVec 4

/-- One bit: a data bit, a parity bit or a syndrome bit (00_scope.md R9). -/
abbrev Bit := BitVec 1

/-- The operation select, port `op` (10_state.md R14). -/
abbrev OpField := BitVec 4

/-- The decode status, port `st` (10_state.md R14). -/
abbrev Status := BitVec 4

/-- A command word `cmd[19:0] = op, a, b`, `op` most significant (30_encoding.md R37). -/
abbrev Command := BitVec 20

end Sys2Proof
end

