-- ==== Sys2Proof/Config.lean ====
section
/-! DEFINITION. What an implementation fixes (00_scope.md R5) and the values the spec leaves open
(93_implementation_defined.md, treatment `any value`). -/

namespace Sys2Proof

/-- The build parameter a value of the block can depend on (00_scope.md R5).
It is fixed when the hardware is built; no port reads or writes it (10_state.md R18). -/
structure Build where
  /-- `STATUS_PORT = 1`: the optional output `st` exists. -/
  statusPort : Bool
deriving DecidableEq, Repr

/-- The default build: `STATUS_PORT = 0` (00_scope.md R5). -/
def Build.default : Build := { statusPort := false }

/-- `LATENCY`, OPEN (00_scope.md R5, 70_reset_and_hazards.md R90): a natural number nobody may compute with.
DESIGN CHOICE, log entry 8, safe. -/
opaque Config.latency : Nat

/-- FREE VALUE (log entry 9, safe; its numbering by the read alone: log entry 21, unsafe): what the pins `y0, y1, st` show, as 20 bits, on the n-th read that breaks
the sampling duty (70_reset_and_hazards.md R86, R91). -/
opaque Config.unsettledLines : Nat → BitVec 20

/-- FREE VALUE (log entry 9, safe; its numbering by the register alone: log entry 21, unsafe): what the k-th register of a pipelined implementation holds at power-up, as the
20 bits `y0, y1, st` (70_reset_and_hazards.md R87). -/
opaque Config.powerUpStage : Nat → BitVec 20

end Sys2Proof
end

