-- ==== Sys2Proof/Machine/State.lean ====
section
/-! DEFINITION. The block holds no architectural state (10_state.md R13 to R20, R24). `State` is the interface around
it: the instance's build, the levels on its input pins, the host's queue of command words and the results the host
has sampled (10_state.md R14, 70_reset_and_hazards.md R92, R94). Log entries 1 to 4. -/

namespace Sys2Proof.Machine

/-- The levels on the three input ports (10_state.md R14, R22). -/
structure Pins where
  /-- operation select -/
  op : OpField
  /-- operand A -/
  a : Byte
  /-- operand B -/
  b : Byte
deriving DecidableEq, Repr

/-- One sampled result tuple (10_state.md R23). `st` is `none` exactly when the port does not exist. -/
structure Result where
  /-- result 0 -/
  y0 : Byte
  /-- result 1 -/
  y1 : Byte
  /-- decode status, when `STATUS_PORT = 1` -/
  st : Option Status
deriving DecidableEq, Repr

/-- One instance and its host, between two transactions. The output ports are no field: they are a function of the
pins (10_state.md R24), `State.outputs` of Machine/CoreFunction.lean. -/
structure State where
  /-- the instance's build parameter, which no step changes (10_state.md R18) -/
  build : Build
  /-- the levels the host drives -/
  pins : Pins
  /-- command words the host has still to present, the next one first (70_reset_and_hazards.md R94) -/
  program : List Command
  /-- the run's observation: the sampled results, oldest first (70_reset_and_hazards.md R94) -/
  results : List Result
deriving DecidableEq, Repr

/-- Reasons to stop with a fault: there are none, so no step can answer `fault`.
60_exceptions.md R70: "A model's step for this block has no fault outcome." -/
inductive Fault : Type
deriving DecidableEq, Repr

/-- Reasons to refuse. -/
inductive Refusal where
  /-- Raised by an arm of `exec` that has no meaning yet; safe. Every arm has its meaning, so nothing raises it. -/
  | notModelled (mnemonic : String)
deriving DecidableEq, Repr

/-- The start of a run. The block has no reset (70_reset_and_hazards.md R85): the default build (00_scope.md R5),
no program, no result. The levels on the pins are a DESIGN CHOICE: the spec gives none (log entry 3, unsafe). -/
def State.reset : State :=
  { build := Build.default, pins := ⟨0x0#4, 0x00#8, 0x00#8⟩, program := [], results := [] }

end Sys2Proof.Machine
end

