-- ==== Sys2Proof/Machine/Operands.lean ====
section
/-! DEFINITION. The operand forms: which bits of `a` and `b` an operation reads (30_encoding.md R39, R40).
Everything else of an operand is dropped here. -/

namespace Sys2Proof.Machine

/-- `bit(v, i)` (00_scope.md R9). -/
def bit {n : Nat} (v : BitVec n) (i : Nat) : Bit := v.extractLsb' i 1

/-- `v[3:0]`: the nibble ENC_NIB encodes, and a byte's low nibble (40_nibble_codec.md R48, 20_memory.md R26). -/
def lowNibble (v : Byte) : Nibble := v.extractLsb' 0 4

/-- `v[7:4]`: a byte's high nibble (20_memory.md R26). -/
def highNibble (v : Byte) : Nibble := v.extractLsb' 4 4

/-- `d1` to `d4` of a nibble, `d1` most significant (00_scope.md R8). -/
structure DataBits where
  /-- bit 3 -/
  d1 : Bit
  /-- bit 2 -/
  d2 : Bit
  /-- bit 1 -/
  d3 : Bit
  /-- bit 0 -/
  d4 : Bit
deriving DecidableEq, Repr

/-- A nibble's data bits (00_scope.md R8, 40_nibble_codec.md R48). -/
def nibbleBits (n : Nibble) : DataBits := ⟨bit n 3, bit n 2, bit n 1, bit n 0⟩

/-- The data bits of a received container, at container bits 4, 2, 1, 0 (40_nibble_codec.md R49, R57). -/
def receivedBits (c : Byte) : DataBits := ⟨bit c 4, bit c 2, bit c 1, bit c 0⟩

end Sys2Proof.Machine
end

