-- ==== Sys2Proof/Machine/Flags.lean ====
section
/-! DEFINITION. The block stores no flags (10_state.md R17). This file holds what the optional output `st` is computed
from: the syndrome (40_nibble_codec.md R54, R55), the correction table (R56) and the decode class (R59). -/

namespace Sys2Proof.Machine

/-- `parity(b1, …, bk)`: 1 when an odd number of the bits are 1 (00_scope.md R9). -/
def parity : List Bit → Bit
  | [] => 0#1
  | x :: xs => x ^^^ parity xs

/-- The three re-checked parity groups; internal, never a port or state (10_state.md R21). -/
structure Syndrome where
  /-- group p1, d1, d2, d4 -/
  s1 : Bit
  /-- group p2, d1, d3, d4 -/
  s2 : Bit
  /-- group p3, d2, d3, d4 -/
  s3 : Bit
deriving DecidableEq, Repr

/-- `syn(c)` (40_nibble_codec.md R54). `bit(c, 7)` is not read. -/
def syn (c : Byte) : Syndrome where
  s1 := parity [bit c 6, bit c 4, bit c 2, bit c 0]
  s2 := parity [bit c 5, bit c 4, bit c 1, bit c 0]
  s3 := parity [bit c 3, bit c 2, bit c 1, bit c 0]

/-- `S`, with `s1` most significant (40_nibble_codec.md R55). -/
def Syndrome.number (s : Syndrome) : BitVec 3 := s.s1 ++ s.s2 ++ s.s3

/-- What the decoder does about a syndrome (40_nibble_codec.md R56). -/
inductive Correction where
  /-- the groups are consistent -/
  | none
  /-- `d1` is flipped -/
  | flipD1
  /-- `d2` is flipped -/
  | flipD2
  /-- `d3` is flipped -/
  | flipD3
  /-- `d4` is flipped -/
  | flipD4
  /-- a parity bit is in error and the data is unchanged -/
  | parityBit
deriving DecidableEq, Repr

/-- The correction table, by `S` (40_nibble_codec.md R56). -/
def correction (s : Syndrome) : Correction :=
  if s.number = 0b000#3 then .none
  else if s.number = 0b111#3 then .flipD4
  else if s.number = 0b110#3 then .flipD1
  else if s.number = 0b101#3 then .flipD2
  else if s.number = 0b011#3 then .flipD3
  else .parityBit

/-- The class a correction is reported as: 00 NoError, 01 Corrected, 10 ParityBitError (40_nibble_codec.md R59). -/
def Correction.code : Correction → BitVec 2
  | .none => 0b00#2
  | .flipD1 | .flipD2 | .flipD3 | .flipD4 => 0b01#2
  | .parityBit => 0b10#2

/-- `cls(c)` (40_nibble_codec.md R59). -/
def cls (c : Byte) : BitVec 2 := (correction (syn c)).code

end Sys2Proof.Machine
end

