-- ==== Sys2Proof/Machine/Ops.lean ====
section
/-! DEFINITION. The shared operations: the nibble encoder and decoder (40_nibble_codec.md R51, R52, R57), the driven
outputs (30_encoding.md R41), one transaction (70_reset_and_hazards.md R90, R94) and the packed views
(41_byte_codec.md R69). The block has no memory and no exceptions (20_memory.md R25, 60_exceptions.md R70, R75), so no
memory operation and no exception entry or return stand here. -/

namespace Sys2Proof.Machine

/-- `enc7(n)`, laid out `0 p1 p2 d1 p3 d2 d3 d4` (40_nibble_codec.md R49, R51). -/
def enc7 (n : Nibble) : Byte :=
  let d := nibbleBits n
  let p1 := parity [d.d1, d.d2, d.d4]
  let p2 := parity [d.d1, d.d3, d.d4]
  let p3 := parity [d.d2, d.d3, d.d4]
  0#1 ++ p1 ++ p2 ++ d.d1 ++ p3 ++ d.d2 ++ d.d3 ++ d.d4

/-- The source's own algorithm: place the data bits, then toggle parity bits for each data bit that is 1
(40_nibble_codec.md R52). -/
def enc7Toggling (n : Nibble) : Byte :=
  let d := nibbleBits n
  let c : Byte := 0#3 ++ d.d1 ++ 0#1 ++ d.d2 ++ d.d3 ++ d.d4
  let c := if d.d1 = 1#1 then c ^^^ 0x60#8 else c
  let c := if d.d2 = 1#1 then c ^^^ 0x48#8 else c
  let c := if d.d3 = 1#1 then c ^^^ 0x28#8 else c
  if d.d4 = 1#1 then c ^^^ 0x68#8 else c

/-- The encoder as the exclusive-or of one column per data bit that is 1 (40_nibble_codec.md R52). -/
def enc7Columns (n : Nibble) : Byte :=
  let d := nibbleBits n
  (if d.d1 = 1#1 then 0x70#8 else 0x00#8) ^^^ (if d.d2 = 1#1 then 0x4C#8 else 0x00#8) ^^^
    (if d.d3 = 1#1 then 0x2A#8 else 0x00#8) ^^^ (if d.d4 = 1#1 then 0x69#8 else 0x00#8)

/-- `dec4(c)`: at most one data bit is flipped; upper bits of the container are zero (40_nibble_codec.md R57). -/
def dec4 (c : Byte) : Byte :=
  let d := receivedBits c
  let s := syn c
  let f1 := s.s1 &&& s.s2 &&& ~~~s.s3
  let f2 := s.s1 &&& ~~~s.s2 &&& s.s3
  let f3 := ~~~s.s1 &&& s.s2 &&& s.s3
  let f4 := s.s1 &&& s.s2 &&& s.s3
  BitVec.setWidth 8 ((d.d1 ^^^ f1) ++ (d.d2 ^^^ f2) ++ (d.d3 ^^^ f3) ++ (d.d4 ^^^ f4))

/-- What a transaction drives on `y0`, `y1` and `st`, before a build without the port drops `st`
(30_encoding.md R41). -/
structure Outputs where
  /-- result 0 -/
  y0 : Byte
  /-- result 1 -/
  y1 : Byte
  /-- decode status -/
  st : Status
deriving DecidableEq, Repr

/-- What the host sees of driven outputs: `st` only when `STATUS_PORT = 1` (10_state.md R14, R23). -/
def Outputs.seen (o : Outputs) (bd : Build) : Result :=
  { y0 := o.y0, y1 := o.y1, st := if bd.statusPort then some o.st else none }

/-- The state after the host drove pins `p` and sampled `r`: the observation grows by one result
(70_reset_and_hazards.md R94). -/
def State.sampled (s : State) (p : Pins) (r : Result) : State := { s with pins := p, results := s.results ++ [r] }

/-- One transaction, one indivisible step (20_memory.md R29, 70_reset_and_hazards.md R90, R94): the host drives the pins,
the block settles, the host samples. Nothing else changes (20_memory.md R30), and there is no other outcome
(60_exceptions.md R70). -/
def transact (p : Pins) (o : Outputs) (s : State) : Host.Outcome State Fault Refusal :=
  .next (s.sampled p (o.seen s.build))

/-- `P16 = y0, y1`: two bytes, high codeword in the upper byte; a view, not a port (41_byte_codec.md R69). -/
def Result.p16 (r : Result) : BitVec 16 := r.y0 ++ r.y1

/-- `P14 = y0[6:0], y1[6:0]`; a view, not a port (41_byte_codec.md R69). -/
def Result.p14 (r : Result) : BitVec 14 := r.y0.extractLsb' 0 7 ++ r.y1.extractLsb' 0 7

end Sys2Proof.Machine
end

