-- ==== Sys2Proof/Machine/ByteCodec.lean ====
section
/-! DEFINITION. The byte operations: two independent nibble lanes (41_byte_codec.md R64 to R67). -/

namespace Sys2Proof.Machine

/-- ENC_BYTE's outputs, high codeword on `y0` (41_byte_codec.md R65). -/
def encByteOutputs (a : Byte) : Outputs := ⟨enc7 (highNibble a), enc7 (lowNibble a), 0x0#4⟩

/-- DEC_BYTE's outputs, high lane from `a`, low lane from `b` (41_byte_codec.md R66). -/
def decByteOutputs (a b : Byte) : Outputs :=
  ⟨lowNibble (dec4 a) ++ lowNibble (dec4 b), 0x00#8, cls a ++ cls b⟩

/-- DEC_BYTE_SINGLE's outputs: DEC_BYTE with an implicit zero high codeword (41_byte_codec.md R67). -/
def decByteSingleOutputs (a : Byte) : Outputs :=
  ⟨lowNibble (dec4 0x00#8) ++ lowNibble (dec4 a), 0x00#8, cls 0x00#8 ++ cls a⟩

/-- ENC_BYTE: encode a byte as two codewords (41_byte_codec.md R65). -/
def execEncByte (a b : Byte) (s : State) : Host.Outcome State Fault Refusal :=
  transact ⟨0x2#4, a, b⟩ (encByteOutputs a) s

/-- DEC_BYTE: decode two codewords into a byte (41_byte_codec.md R66). -/
def execDecByte (a b : Byte) (s : State) : Host.Outcome State Fault Refusal :=
  transact ⟨0x3#4, a, b⟩ (decByteOutputs a b) s

/-- DEC_BYTE_SINGLE: decode one codeword as the low nibble of a byte (41_byte_codec.md R67). -/
def execDecByteSingle (a b : Byte) (s : State) : Host.Outcome State Fault Refusal :=
  transact ⟨0x4#4, a, b⟩ (decByteSingleOutputs a) s

end Sys2Proof.Machine
end

