-- ==== Sys2Proof/Machine/NibbleCodec.lean ====
section
/-! DEFINITION. The nibble operations ENC_NIB and DEC_NIB (40_nibble_codec.md R62, R63). -/

namespace Sys2Proof.Machine

/-- ENC_NIB's outputs (40_nibble_codec.md R62). -/
def encNibOutputs (a : Byte) : Outputs := ⟨enc7 (lowNibble a), 0x00#8, 0x0#4⟩

/-- DEC_NIB's outputs (40_nibble_codec.md R63). -/
def decNibOutputs (a : Byte) : Outputs := ⟨dec4 a, 0x00#8, 0b00#2 ++ cls a⟩

/-- ENC_NIB: encode one nibble (40_nibble_codec.md R62). -/
def execEncNib (a b : Byte) (s : State) : Host.Outcome State Fault Refusal :=
  transact ⟨0x0#4, a, b⟩ (encNibOutputs a) s

/-- DEC_NIB: decode one codeword, correcting a single-bit error (40_nibble_codec.md R63). -/
def execDecNib (a b : Byte) (s : State) : Host.Outcome State Fault Refusal :=
  transact ⟨0x1#4, a, b⟩ (decNibOutputs a) s

end Sys2Proof.Machine
end

