-- ==== Sys2Proof/Machine/Reserved.lean ====
section
/-! DEFINITION. The reserved operation values 0x5 to 0xF: zeros and no trap (41_byte_codec.md R68,
60_exceptions.md R72, 92_eei_decisions.md D5). Log entry 6. -/

namespace Sys2Proof.Machine

/-- The outputs of every reserved value (41_byte_codec.md R68). -/
def reservedOutputs : Outputs := ⟨0x00#8, 0x00#8, 0x0#4⟩

/-- `op` = 0x5 (41_byte_codec.md R68). -/
def execReserved5 (a b : Byte) (s : State) : Host.Outcome State Fault Refusal :=
  transact ⟨0x5#4, a, b⟩ reservedOutputs s

/-- `op` = 0x6 or 0x7 (41_byte_codec.md R68). -/
def execReserved6To7 (op : OpField) (a b : Byte) (s : State) : Host.Outcome State Fault Refusal :=
  transact ⟨op, a, b⟩ reservedOutputs s

/-- `op` = 0x8 to 0xF (41_byte_codec.md R68). -/
def execReserved8ToF (op : OpField) (a b : Byte) (s : State) : Host.Outcome State Fault Refusal :=
  transact ⟨op, a, b⟩ reservedOutputs s

end Sys2Proof.Machine
end

