-- ==== Sys2Proof/Syntax.lean ====
section
/-! DEFINITION. The operations of spec/opcode_table.json, one constructor per row. Every command word carries both
operands, also where the operation ignores one (30_encoding.md R37, R39). -/

namespace Sys2Proof

/-- One transaction: what the host presents on `op`, `a`, `b` (30_encoding.md R37, R38). -/
inductive Instr where
  /-- ENC_NIB (40_nibble_codec.md R62). -/
  | encNib (a b : Byte)
  /-- DEC_NIB (40_nibble_codec.md R63). -/
  | decNib (a b : Byte)
  /-- ENC_BYTE (41_byte_codec.md R65). -/
  | encByte (a b : Byte)
  /-- DEC_BYTE (41_byte_codec.md R66). -/
  | decByte (a b : Byte)
  /-- DEC_BYTE_SINGLE (41_byte_codec.md R67). -/
  | decByteSingle (a b : Byte)
  /-- RESERVED_5 (41_byte_codec.md R68). -/
  | reserved5 (a b : Byte)
  /-- RESERVED_6_7 (41_byte_codec.md R68): the row covers two values, so the operation select is a field. -/
  | reserved6To7 (op : OpField) (a b : Byte)
  /-- RESERVED_8_F (41_byte_codec.md R68): the row covers eight values. -/
  | reserved8ToF (op : OpField) (a b : Byte)
deriving DecidableEq, Repr

end Sys2Proof
end

