-- ==== Sys2Proof/Machine/Dispatch.lean ====
section
/-! DEFINITION. The meaning of one operation: one arm per constructor (30_encoding.md R38). -/

namespace Sys2Proof.Machine

def exec (i : Instr) (s : State) : Host.Outcome State Fault Refusal :=
  match i with
  | .encNib a b => Sys2Proof.Machine.execEncNib a b s
  | .decNib a b => Sys2Proof.Machine.execDecNib a b s
  | .encByte a b => Sys2Proof.Machine.execEncByte a b s
  | .decByte a b => Sys2Proof.Machine.execDecByte a b s
  | .decByteSingle a b => Sys2Proof.Machine.execDecByteSingle a b s
  | .reserved5 a b => Sys2Proof.Machine.execReserved5 a b s
  | .reserved6To7 op a b => Sys2Proof.Machine.execReserved6To7 op a b s
  | .reserved8ToF op a b => Sys2Proof.Machine.execReserved8ToF op a b s

end Sys2Proof.Machine
end

