-- ==== Sys2Proof/WellFormed.lean ====
section
/-! DEFINITION. Which terms of `Instr` stand for a command word: an operation select held as a field must be one of
the values its row covers (30_encoding.md R42, 41_byte_codec.md R68). Operands need no check: any value is legal
and unread bits are ignored, never rejected (30_encoding.md R40). Log entry 13. -/

namespace Sys2Proof

/-- The check, constructor by constructor. -/
def Instr.wellFormed : Instr → Bool
  | .encNib _ _ => true
  | .decNib _ _ => true
  | .encByte _ _ => true
  | .decByte _ _ => true
  | .decByteSingle _ _ => true
  | .reserved5 _ _ => true
  | .reserved6To7 op _ _ => op &&& 0xE#4 == 0x6#4
  | .reserved8ToF op _ _ => op &&& 0x8#4 == 0x8#4

end Sys2Proof
end

