-- ==== Sys2Proof/Decode.lean ====
section
/-! DEFINITION. Command words to operations and back (30_encoding.md R37, R38, R42), and the rows of
spec/opcode_table.json as masks and matches. -/

namespace Sys2Proof

/-- `cmd[19:16]` (30_encoding.md R37). -/
def opField (w : Command) : OpField := w.extractLsb' 16 4

/-- `cmd[15:8]` (30_encoding.md R37). -/
def aField (w : Command) : Byte := w.extractLsb' 8 8

/-- `cmd[7:0]` (30_encoding.md R37). -/
def bField (w : Command) : Byte := w.extractLsb' 0 8

/-- `cmd = op, a, b` with `op` most significant (30_encoding.md R37). -/
def pack (op : OpField) (a b : Byte) : Command := op ++ a ++ b

/-- The operation the select `op` names (30_encoding.md R38); total (R42). -/
def decodeFields (op : OpField) (a b : Byte) : Instr :=
  if op = 0x0#4 then .encNib a b
  else if op = 0x1#4 then .decNib a b
  else if op = 0x2#4 then .encByte a b
  else if op = 0x3#4 then .decByte a b
  else if op = 0x4#4 then .decByteSingle a b
  else if op = 0x5#4 then .reserved5 a b
  else if op &&& 0xE#4 = 0x6#4 then .reserved6To7 op a b
  else .reserved8ToF op a b

/-- Decoding a command word is total: every 20-bit word is an operation (30_encoding.md R42). -/
def decode (w : Command) : Instr := decodeFields (opField w) (aField w) (bField w)

/-- Why a number is not decoded. -/
inductive DecodeError where
  /-- Raised by `decodeNat` for a number of more than 20 bits: no such command word exists (30_encoding.md R37, R44).
  Safe (log entry 10). -/
  | notACommandWord
deriving DecidableEq, Repr

/-- Decoding of any number, as a listing would hold it: 20-bit words only (30_encoding.md R44). -/
def decodeNat (w : Nat) : Except DecodeError Instr :=
  if w < 2 ^ 20 then .ok (decode (BitVec.ofNat 20 w)) else .error .notACommandWord

/-- The operation select an operation is presented with (30_encoding.md R38, 41_byte_codec.md R68). -/
def Instr.op : Instr → OpField
  | .encNib _ _ => 0x0#4
  | .decNib _ _ => 0x1#4
  | .encByte _ _ => 0x2#4
  | .decByte _ _ => 0x3#4
  | .decByteSingle _ _ => 0x4#4
  | .reserved5 _ _ => 0x5#4
  | .reserved6To7 op _ _ => op
  | .reserved8ToF op _ _ => op

/-- The byte presented on port `a` (30_encoding.md R37). -/
def Instr.a : Instr → Byte
  | .encNib a _ | .decNib a _ | .encByte a _ | .decByte a _ | .decByteSingle a _ | .reserved5 a _ => a
  | .reserved6To7 _ a _ | .reserved8ToF _ a _ => a

/-- The byte presented on port `b` (30_encoding.md R37). -/
def Instr.b : Instr → Byte
  | .encNib _ b | .decNib _ b | .encByte _ b | .decByte _ b | .decByteSingle _ b | .reserved5 _ b => b
  | .reserved6To7 _ _ b | .reserved8ToF _ _ b => b

/-- The command word of an operation (30_encoding.md R37). -/
def encode (i : Instr) : Command := pack i.op i.a i.b

/-- The row's mnemonic in spec/opcode_table.json. -/
def Instr.mnemonic : Instr → String
  | .encNib _ _ => "ENC_NIB"
  | .decNib _ _ => "DEC_NIB"
  | .encByte _ _ => "ENC_BYTE"
  | .decByte _ _ => "DEC_BYTE"
  | .decByteSingle _ _ => "DEC_BYTE_SINGLE"
  | .reserved5 _ _ => "RESERVED_5"
  | .reserved6To7 _ _ _ => "RESERVED_6_7"
  | .reserved8ToF _ _ _ => "RESERVED_8_F"

/-- One row of spec/opcode_table.json. -/
structure OpcodeRow where
  /-- the table's mnemonic -/
  mnemonic : String
  /-- the table's `match` -/
  bits : Command
  /-- the table's `mask` -/
  mask : Command
deriving DecidableEq, Repr

/-- A command word matches a row when it agrees with the row's bits under its mask (30_encoding.md R42). -/
def OpcodeRow.covers (r : OpcodeRow) (w : Command) : Bool := w &&& r.mask == r.bits

/-- spec/opcode_table.json, row by row. -/
def opcodeTable : List OpcodeRow :=
  [ ⟨"ENC_NIB", 0x00000#20, 0xF0000#20⟩,
    ⟨"DEC_NIB", 0x10000#20, 0xF0000#20⟩,
    ⟨"ENC_BYTE", 0x20000#20, 0xF0000#20⟩,
    ⟨"DEC_BYTE", 0x30000#20, 0xF0000#20⟩,
    ⟨"DEC_BYTE_SINGLE", 0x40000#20, 0xF0000#20⟩,
    ⟨"RESERVED_5", 0x50000#20, 0xF0000#20⟩,
    ⟨"RESERVED_6_7", 0x60000#20, 0xE0000#20⟩,
    ⟨"RESERVED_8_F", 0x80000#20, 0x80000#20⟩ ]

/-- The host's question (log entry 17): the operation read from the `nbits` low bits of `w`, every bit above them 0;
none where they are no command word. -/
def decodeTableWord (nbits w : Nat) : Option Instr :=
  match decodeNat (w % 2 ^ nbits) with
  | .ok i => some i
  | .error _ => none

end Sys2Proof
end

