-- ==== Sys2Proof/Machine/Fetch.lean ====
section
/-! DEFINITION. How a program reaches the block: the block fetches nothing (10_state.md R16); the host presents a list
of command words in order (70_reset_and_hazards.md R94). Log entry 4. -/

namespace Sys2Proof.Machine

/-- The next word the host presents, and the state with that word taken off its list (70_reset_and_hazards.md R94). -/
def nextCommand (s : State) : Option (Command × State) :=
  match s.program with
  | [] => none
  | w :: rest => some (w, { s with program := rest })

/-- The input pins a command word drives (30_encoding.md R37). -/
def pinsOf (w : Command) : Pins := ⟨opField w, aField w, bField w⟩

/-- The host is given more command words to present, after those it has (70_reset_and_hazards.md R94). -/
def State.load (s : State) (ws : List Command) : State := { s with program := s.program ++ ws }

end Sys2Proof.Machine
end

