-- ==== Sys2Proof/Machine/Step.lean ====
section
/-! DEFINITION. One step: the host presents its next command word and the block runs it (70_reset_and_hazards.md R90,
R94). With nothing left to present the run has ended and nothing changes (70_reset_and_hazards.md R95, log entry 5). -/

namespace Sys2Proof.Machine

/-- One step of the machine. -/
def step (s : State) : Host.Outcome State Fault Refusal :=
  match nextCommand s with
  | none => .next s
  | some (w, rest) => exec (decode w) rest

/-- The state whose next step presents the `nbits` low bits of `w` (log entries 4 and 17): the word is put before the
host's other words. Where they are no command word nothing can be presented, and the state is unchanged. -/
def State.withFetchWord (s : State) (nbits w : Nat) : State :=
  if w % 2 ^ nbits < 2 ^ 20 then { s with program := BitVec.ofNat 20 (w % 2 ^ nbits) :: s.program } else s

end Sys2Proof.Machine
end

