-- ==== Sys2Proof/Machine/Assembler.lean ====
section
/-! DEFINITION. Host side, not hardware: the listing syntax of 30_encoding.md R45 and the binary rendering of
00_scope.md R6. Log entry 11. -/

namespace Sys2Proof.Machine

/-- `format_binary8(v)`: eight characters, most significant bit first (00_scope.md R6). -/
def formatBinary8 (v : Byte) : String :=
  String.ofList ([7, 6, 5, 4, 3, 2, 1, 0].map fun i => if bit v i = 1#1 then '1' else '0')

/-- One line of a listing, its operands as written (30_encoding.md R45). -/
inductive Line where
  /-- `ENC_NIB x` -/
  | encNib (x : Nat)
  /-- `DEC_NIB x` -/
  | decNib (x : Nat)
  /-- `ENC_BYTE x` -/
  | encByte (x : Nat)
  /-- `DEC_BYTE h, l` -/
  | decByte (h l : Nat)
  /-- `DEC_BYTE_SINGLE x` -/
  | decByteSingle (x : Nat)
  /-- `.word w` -/
  | word (w : Nat)
deriving DecidableEq, Repr

/-- Why the assembler refuses a line (30_encoding.md R45). -/
inductive AsmError where
  /-- the first token is no mnemonic and not `.word` -/
  | unknownMnemonic
  /-- too many or too few operands for the mnemonic -/
  | operandCount
  /-- an operand is no number of the syntax (a minus sign is none) -/
  | badNumber
  /-- an operand is above 255; the assembler does not truncate -/
  | operandTooLarge
  /-- a raw word has more than 20 bits -/
  | wordTooLarge
deriving DecidableEq, Repr

/-- An operand must lie in 0 to 255 (30_encoding.md R45). -/
def operandByte (x : Nat) : Except AsmError Byte :=
  if x < 256 then .ok (BitVec.ofNat 8 x) else .error .operandTooLarge

/-- One operand goes in `a`, and `b` is 0 (30_encoding.md R45). -/
def assembleOne (f : Byte → Byte → Instr) (x : Nat) : Except AsmError Command :=
  match operandByte x with
  | .ok a => .ok (encode (f a 0x00#8))
  | .error e => .error e

/-- The command word of a line (30_encoding.md R45). -/
def Line.assemble : Line → Except AsmError Command
  | .encNib x => assembleOne .encNib x
  | .decNib x => assembleOne .decNib x
  | .encByte x => assembleOne .encByte x
  | .decByteSingle x => assembleOne .decByteSingle x
  | .decByte h l =>
    match operandByte h, operandByte l with
    | .ok a, .ok b => .ok (encode (.decByte a b))
    | .error e, _ => .error e
    | _, .error e => .error e
  | .word w => if w < 2 ^ 20 then .ok (BitVec.ofNat 20 w) else .error .wordTooLarge

/-- The value of a digit, if it is one. -/
def digitValue (c : Char) : Option Nat :=
  let n := c.toNat
  if 48 ≤ n ∧ n ≤ 57 then some (n - 48)
  else if 65 ≤ n ∧ n ≤ 70 then some (n - 55)
  else if 97 ≤ n ∧ n ≤ 102 then some (n - 87)
  else none

/-- The digits of a number in a base, most significant first, added to what stands before them. -/
def digitsFrom (base acc : Nat) : List Char → Option Nat
  | [] => some acc
  | c :: cs =>
    match digitValue c with
    | some d => if d < base then digitsFrom base (acc * base + d) cs else none
    | none => none

/-- At least one digit in a base. -/
def parseDigits (base : Nat) : List Char → Option Nat
  | [] => none
  | c :: cs => digitsFrom base 0 (c :: cs)

/-- `0b` and binary digits, `0x` and hexadecimal digits, or decimal digits (30_encoding.md R45). -/
def parseNumber : List Char → Option Nat
  | '0' :: 'b' :: ds => parseDigits 2 ds
  | '0' :: 'x' :: ds => parseDigits 16 ds
  | ds => parseDigits 10 ds

/-- The raw word after `.word`: `0x` and hexadecimal digits (30_encoding.md R45). -/
def parseRawWord : List Char → Option Nat
  | '0' :: 'x' :: ds => parseDigits 16 ds
  | _ => none

/-- A blank between tokens. -/
def isBlank (c : Char) : Bool := c == ' ' || c == '\t'

/-- A text without the blanks around it. -/
def trimBlanks (cs : List Char) : List Char :=
  ((cs.dropWhile isBlank).reverse.dropWhile isBlank).reverse

/-- The texts between commas; one text where there is none. -/
def splitCommas : List Char → List (List Char)
  | [] => [[]]
  | c :: cs =>
    match c, splitCommas cs with
    | ',', parts => [] :: parts
    | c, part :: parts => (c :: part) :: parts
    | c, [] => [[c]]

/-- A line of one operand. -/
def oneOperand (f : Nat → Line) : List (List Char) → Except AsmError Line
  | [x] =>
    match parseNumber x with
    | some n => .ok (f n)
    | none => .error .badNumber
  | _ => .error .operandCount

/-- A line of two operands. -/
def twoOperands (f : Nat → Nat → Line) : List (List Char) → Except AsmError Line
  | [x, y] =>
    match parseNumber x, parseNumber y with
    | some m, some n => .ok (f m n)
    | _, _ => .error .badNumber
  | _ => .error .operandCount

/-- A raw word. -/
def rawWord : List (List Char) → Except AsmError Line
  | [x] =>
    match parseRawWord x with
    | some n => .ok (.word n)
    | none => .error .badNumber
  | _ => .error .operandCount

/-- A line of a listing; mnemonics are case-sensitive and a comment runs from `;` to the end (30_encoding.md R45). -/
def parseLine (text : String) : Except AsmError Line :=
  let body := trimBlanks (text.toList.takeWhile (· != ';'))
  let head := body.takeWhile (fun c => !isBlank c)
  let tail := trimBlanks (body.dropWhile (fun c => !isBlank c))
  let operands := if tail.isEmpty then [] else (splitCommas tail).map trimBlanks
  if head = "ENC_NIB".toList then oneOperand .encNib operands
  else if head = "DEC_NIB".toList then oneOperand .decNib operands
  else if head = "ENC_BYTE".toList then oneOperand .encByte operands
  else if head = "DEC_BYTE".toList then twoOperands .decByte operands
  else if head = "DEC_BYTE_SINGLE".toList then oneOperand .decByteSingle operands
  else if head = ".word".toList then rawWord operands
  else .error .unknownMnemonic

/-- A line's text to its command word (30_encoding.md R45). -/
def assembleText (text : String) : Except AsmError Command :=
  match parseLine text with
  | .ok l => l.assemble
  | .error e => .error e

/-- A listing to the program it stands for, the first refused line ending it (70_reset_and_hazards.md R94). -/
def assembleListing : List String → Except AsmError (List Command)
  | [] => .ok []
  | l :: ls =>
    match assembleText l, assembleListing ls with
    | .ok w, .ok ws => .ok (w :: ws)
    | .error e, _ => .error e
    | _, .error e => .error e

end Sys2Proof.Machine
end

