-- ==== Sys2Proof/Machine/Instances.lean ====
section
/-! DEFINITION. Any number of instances side by side, in any interleaving (20_memory.md R32, 60_exceptions.md R82).
Log entry 14. -/

namespace Sys2Proof.Machine

/-- The instances of a system; they share nothing (60_exceptions.md R82). -/
abbrev System := List State

/-- Instance `k` makes a step; the others make none. Where there is no instance `k`, nothing happens. -/
def System.stepAt (m : System) (k : Nat) : Host.Outcome System Fault Refusal :=
  match m[k]? with
  | none => .next m
  | some s =>
    match step s with
    | .next t => .next (m.set k t)
    | .fault r => .fault r
    | .refused r => .refused r

/-- An interleaving: which instance steps, in order. -/
def System.run (m : System) : List Nat → Host.Outcome System Fault Refusal
  | [] => .next m
  | k :: ks =>
    match m.stepAt k with
    | .next n => System.run n ks
    | .fault r => .fault r
    | .refused r => .refused r

end Sys2Proof.Machine
end

