-- ==== Sys2Proof/Machine/CoreFunction.lean ====
section
/-! DEFINITION. The transaction function of the whole block (10_state.md R23) and the output ports as a function of
the pins (10_state.md R24, 70_reset_and_hazards.md R86). -/

namespace Sys2Proof.Machine

/-- `core(op, a, b)`, before a build without the port drops `st` (10_state.md R23). -/
def coreOutputs (p : Pins) : Outputs :=
  if p.op = 0x0#4 then encNibOutputs p.a
  else if p.op = 0x1#4 then decNibOutputs p.a
  else if p.op = 0x2#4 then encByteOutputs p.a
  else if p.op = 0x3#4 then decByteOutputs p.a p.b
  else if p.op = 0x4#4 then decByteSingleOutputs p.a
  else reservedOutputs

/-- `core(op, a, b)` as a host of this build sees it (10_state.md R23). -/
def coreFn (bd : Build) (p : Pins) : Result := (coreOutputs p).seen bd

/-- What the output ports show once settled: not state, but a function of the current inputs (10_state.md R24). -/
def State.outputs (s : State) : Result := coreFn s.build s.pins

end Sys2Proof.Machine
end

