-- ==== Sys2Proof/Machine/Combinational.lean ====
section
/-! DEFINITION. The block at its pins with `LATENCY = 0`: the outputs between an input change and settling, and the
host's sampling duty (70_reset_and_hazards.md R86, R91, R92). The propagation delay is not modelled: settling is an
event (93_implementation_defined.md). Log entries 7, 9, 19 and 21. -/

namespace Sys2Proof.Machine

/-- Twenty lines read as `y0`, `y1`, `st`. -/
def linesOutputs (v : BitVec 20) : Outputs :=
  ⟨v.extractLsb' 12 8, v.extractLsb' 4 8, v.extractLsb' 0 4⟩

/-- The pins of a combinational implementation. -/
structure Combinational where
  /-- the instance's build parameter -/
  build : Build
  /-- the levels the host drives -/
  pins : Pins
  /-- whether the propagation delay has passed since the inputs last changed -/
  settled : Bool
  /-- the model's own counter: it numbers the reads of unsettled outputs (log entry 9) -/
  reads : Nat
deriving DecidableEq, Repr

/-- The host changes the inputs: the outputs are unspecified until the logic settles again, and a transaction under
way is replaced, not finished (70_reset_and_hazards.md R91, 60_exceptions.md R73).
DESIGN CHOICE, log entry 19, safe: driving the levels that already stand counts as an input change and unsettles the
outputs too; the spec speaks only of an input change (70_reset_and_hazards.md R86, R91). -/
def Combinational.drive (p : Pins) (c : Combinational) : Combinational := { c with pins := p, settled := false }

/-- The host changes its inputs several times without waiting. -/
def Combinational.driveAll (ps : List Pins) (c : Combinational) : Combinational :=
  ps.foldl (fun c p => c.drive p) c

/-- The propagation delay passes with the inputs held (70_reset_and_hazards.md R91). -/
def Combinational.settle (c : Combinational) : Combinational := { c with settled := true }

/-- The host reads the outputs; it may do so at any time (70_reset_and_hazards.md R92). Before settling the value is
free (70_reset_and_hazards.md R86; log entry 9).
DESIGN CHOICE, log entry 21, unsafe: it is numbered by `reads` alone, so two implementations whose counters agree read
equal values. -/
def Combinational.read (c : Combinational) : Result × Combinational :=
  if c.settled then (coreFn c.build c.pins, c)
  else ((linesOutputs (Config.unsettledLines c.reads)).seen c.build, { c with reads := c.reads + 1 })

/-- A sample the host may take as meaningful (70_reset_and_hazards.md R91, R92). -/
def Combinational.sample (c : Combinational) : Option Result :=
  if c.settled then some c.read.1 else none

end Sys2Proof.Machine
end

