-- ==== Sys2Proof/Machine/Pipeline.lean ====
section
/-! DEFINITION. The block with `LATENCY = L > 0`: inputs captured at a clock edge, results on the outputs after edge
`t + L` (70_reset_and_hazards.md R87, R91). The registers hold results in flight and are not architectural state
(70_reset_and_hazards.md R87). Log entries 8, 9, 20 and 21. -/

namespace Sys2Proof.Machine

/-- A registered implementation. -/
structure Pipe where
  /-- the instance's build parameter -/
  build : Build
  /-- `LATENCY` -/
  latency : Nat
  /-- results in flight, the newest capture first; the last is on the outputs -/
  stages : List Result
  /-- how many edges have captured inputs -/
  captured : Nat
deriving DecidableEq, Repr

/-- A pipe's registers reach from the capture of edge `t` to the outputs after edge `t + L`. -/
def Pipe.wellFormed (p : Pipe) : Bool := p.stages.length == p.latency + 1

/-- Power-up: the spec gives no value for the registers (70_reset_and_hazards.md R87): free values (log entry 9).
DESIGN CHOICE, log entry 21, unsafe: the free value is numbered by the register alone, so all pipes, and all power-ups
of one pipe, start with equal values; the spec relates them in no way. -/
def Pipe.powerUp (bd : Build) (latency : Nat) : Pipe where
  build := bd
  latency := latency
  stages := (List.range (latency + 1)).map fun k => (linesOutputs (Config.powerUpStage k)).seen bd
  captured := 0

/-- The implementation of the build parameter `LATENCY` (00_scope.md R5). -/
def Pipe.implementation (bd : Build) : Pipe := Pipe.powerUp bd Config.latency

/-- A clock edge captures the inputs; every result in flight moves on (70_reset_and_hazards.md R91).
DESIGN CHOICE, log entry 20, unsafe: EVERY edge captures, one transaction a cycle. The spec sets no throughput
requirement (70_reset_and_hazards.md R90) and only says that a result stays until the next capture reaches the outputs
(R91). -/
def Pipe.edge (p : Pipe) (i : Pins) : Pipe :=
  { p with stages := coreFn p.build i :: p.stages.dropLast, captured := p.captured + 1 }

/-- Several edges, the first inputs first. -/
def Pipe.edges (p : Pipe) : List Pins → Pipe
  | [] => p
  | i :: rest => (p.edge i).edges rest

/-- What is on the outputs (70_reset_and_hazards.md R91). -/
def Pipe.outputs (p : Pipe) : Option Result := p.stages.getLast?

/-- A sample the host may take as meaningful: none until `LATENCY` edges after the first capture
(70_reset_and_hazards.md R87). -/
def Pipe.sample (p : Pipe) : Option Result := if p.latency < p.captured then p.outputs else none

/-- The run as a host that follows the duty sees it: after every edge it takes the sample that is allowed, if one is
(70_reset_and_hazards.md R87, R91). -/
def Pipe.samples (p : Pipe) : List Pins → List Result
  | [] => []
  | i :: rest => (p.edge i).sample.toList ++ (p.edge i).samples rest

end Sys2Proof.Machine
end

