-- ==== Sys2Proof/Safety.lean ====
section
/-! DEFINITION. What holds of every run. The block cannot stop: no fault exists (60_exceptions.md R70) and no arm
refuses, so a safe run is one whose sampled results are results the block can give. -/

namespace Sys2Proof.Machine

/-- Neither lane's class is 11, which is never produced (40_nibble_codec.md R59). -/
def Status.classesLegal (st : Status) : Bool := st.extractLsb' 0 2 != 0b11#2 && st.extractLsb' 2 2 != 0b11#2

/-- A result the block of this build can give: `st` exists exactly when the build has the port (10_state.md R14), its
classes are among the three (40_nibble_codec.md R59), and `y1`, which carries a codeword or zero, has bit 7 clear
(30_encoding.md R41, 40_nibble_codec.md R53). -/
def Result.legal (bd : Build) (r : Result) : Bool :=
  r.st.isSome == bd.statusPort && r.st.all Status.classesLegal && !r.y1.getLsbD 7

/-- The invariant of a run: every sampled result is legal, and the last one is what the output ports show for the
levels now driven (10_state.md R24, 70_reset_and_hazards.md R86). -/
def State.Inv (s : State) : Prop :=
  (∀ r ∈ s.results, r.legal s.build = true) ∧ ∀ r, s.results.getLast? = some r → r = s.outputs

end Sys2Proof.Machine
end

