-- ==== Sys2Proof/Certificates/Slice0/SpecView.lean ====
section
/-! DEFINITION. The spec's tables in a second form, independent of the model's formulas, for the statements to compare
the machine with. Nothing here is used by the machine. -/

namespace Sys2Proof.Spec

open Sys2Proof.Machine

/-- `c` is laid out as 40_nibble_codec.md R49 says, carries the data bits of `n`, and each parity group of R50 is
even. At most one container is this for a nibble. -/
abbrev IsCodewordOf (n : Nibble) (c : Byte) : Prop :=
  c.getLsbD 7 = false ∧
  c.getLsbD 4 = n.getLsbD 3 ∧ c.getLsbD 2 = n.getLsbD 2 ∧ c.getLsbD 1 = n.getLsbD 1 ∧ c.getLsbD 0 = n.getLsbD 0 ∧
  (c.getLsbD 6 ^^ c.getLsbD 4 ^^ c.getLsbD 2 ^^ c.getLsbD 0) = false ∧
  (c.getLsbD 5 ^^ c.getLsbD 4 ^^ c.getLsbD 1 ^^ c.getLsbD 0) = false ∧
  (c.getLsbD 3 ^^ c.getLsbD 2 ^^ c.getLsbD 1 ^^ c.getLsbD 0) = false

/-- `S` as three exclusive-ors, `s1` most significant (40_nibble_codec.md R54, R55). -/
def syndromeOf (c : Byte) : BitVec 3 :=
  (bit c 6 ^^^ bit c 4 ^^^ bit c 2 ^^^ bit c 0) ++ (bit c 5 ^^^ bit c 4 ^^^ bit c 1 ^^^ bit c 0) ++
    (bit c 3 ^^^ bit c 2 ^^^ bit c 1 ^^^ bit c 0)

/-- The data bit a syndrome flips, as a nibble: column "decoder action" of 40_nibble_codec.md R56. -/
def flipOf (S : BitVec 3) : Nibble :=
  if S = 0b111#3 then 0b0001#4
  else if S = 0b110#3 then 0b1000#4
  else if S = 0b101#3 then 0b0100#4
  else if S = 0b011#3 then 0b0010#4
  else 0b0000#4

/-- The nibble the correction table returns for a received container (40_nibble_codec.md R56). -/
def tableNibble (c : Byte) : Nibble := (bit c 4 ++ bit c 2 ++ bit c 1 ++ bit c 0) ^^^ flipOf (syndromeOf c)

/-- The class of a received container: how many of the three groups are odd (40_nibble_codec.md R59). -/
def tableClass (c : Byte) : BitVec 2 :=
  if syndromeOf c = 0b000#3 then 0b00#2
  else if syndromeOf c = 0b100#3 ∨ syndromeOf c = 0b010#3 ∨ syndromeOf c = 0b001#3 then 0b10#2
  else 0b01#2

/-- `zext_8` of a nibble (00_scope.md R9). -/
def widen (n : Nibble) : Byte := 0x0#4 ++ n

/-- The number of 1 bits. -/
def weight (c : Byte) : Nat := ((List.range 8).filter fun i => c.getLsbD i).length

/-- `st` on a build: there only when `STATUS_PORT = 1` (10_state.md R14). -/
def statusIf (bd : Build) (st : Status) : Option Status := if bd.statusPort then some st else none

/-- Column "reads" of 30_encoding.md R39 for `a`, as a mask. -/
def readsA (op : OpField) : Byte :=
  if op = 0x0#4 then 0x0F#8
  else if op = 0x2#4 then 0xFF#8
  else if op = 0x1#4 ∨ op = 0x3#4 ∨ op = 0x4#4 then 0x7F#8
  else 0x00#8

/-- Column "reads" of 30_encoding.md R39 for `b`, as a mask. -/
def readsB (op : OpField) : Byte := if op = 0x3#4 then 0x7F#8 else 0x00#8

end Sys2Proof.Spec
end

