-- ==== Sys2Proof/Certificates/Slice0/Obligations.lean ====
section
/-! DEFINITION. The statements for the provers. Each docstring names the rule of spec/ it formalises. -/

open Sys2Proof Sys2Proof.Machine Sys2Proof.Spec

/-! ### Reset, decoding, stepping -/

/-- A run starts with the default build, nothing to present and nothing sampled. The default 0 is 00_scope.md R5's; that
the build stands in `State` is the model's choice (log entry 2, DESIGN CHOICE). That `State.reset` holds the empty list
of words is the model's choice too (log entry 4, DESIGN CHOICE), and with it that nothing has been sampled (log entry 15,
DEDUCED): no rule gives a reset or a start list. -/
def Obligations.ResetStartsAnEmptyRun : Prop :=
  State.reset.build.statusPort = false ∧ State.reset.program = [] ∧ State.reset.results = []

/-- The invariant of a run holds at its start. -/
def Obligations.ResetMeetsTheRunInvariant : Prop := State.reset.Inv

/-- From every state that meets the invariant, a step gives a state that meets it: every sampled result is one the
block can give (`st` present exactly on a build with the port, no class 11, `y1` bit 7 clear), and the last one is what
the output ports show for the levels now driven. -/
def Obligations.StepKeepsTheRunInvariant : Prop :=
  ∀ s t : State, s.Inv → step s = .next t → t.Inv

/-- 30_encoding.md R37: `cmd = op, a, b`, as fields, as arithmetic, and as the levels its execution drives. -/
def Obligations.CommandWordPacksOpAB : Prop :=
  ∀ (i : Instr) (s : State),
    (encode i).extractLsb' 16 4 = i.op ∧ (encode i).extractLsb' 8 8 = i.a ∧ (encode i).extractLsb' 0 8 = i.b ∧
    (encode i).toNat = i.op.toNat * 0x10000 + i.a.toNat * 0x100 + i.b.toNat ∧
    ∃ t : State, exec i s = .next t ∧ t.pins = ⟨i.op, i.a, i.b⟩

/-- Decoding the word of a well-formed operation gives it back, with every operand at every value. -/
def Obligations.DecodeOfEncodeIsIdentity : Prop :=
  ∀ i : Instr, i.wellFormed = true → decode (encode i) = i

/-- Every word decodes to a well-formed operation whose word it is: no bit of a word is dropped. -/
def Obligations.EncodeOfDecodeIsIdentity : Prop :=
  ∀ w : Command, (decode w).wellFormed = true ∧ encode (decode w) = w

/-- 30_encoding.md R38: which operation each value of `op` selects, with the operands of the word. -/
def Obligations.OpFieldSelectsTheOperation : Prop :=
  ∀ (op : OpField) (a b : Byte),
    decode (0x0#4 ++ a ++ b) = .encNib a b ∧ decode (0x1#4 ++ a ++ b) = .decNib a b ∧
    decode (0x2#4 ++ a ++ b) = .encByte a b ∧ decode (0x3#4 ++ a ++ b) = .decByte a b ∧
    decode (0x4#4 ++ a ++ b) = .decByteSingle a b ∧
    (5 ≤ op.toNat → decode (op ++ a ++ b) =
      if op.toNat = 5 then .reserved5 a b else if op.toNat < 8 then .reserved6To7 op a b else .reserved8ToF op a b)

/-- 30_encoding.md R42: every word matches exactly one row of the table, the row of the operation it decodes to; masks
lie in the operation field; the five operations have the whole field as mask. -/
def Obligations.EveryWordMatchesExactlyOneRow : Prop :=
  (∀ w : Command, ∃ r ∈ opcodeTable, r.covers w = true ∧ r.mnemonic = (decode w).mnemonic ∧
    (∀ q ∈ opcodeTable, q.covers w = true → q = r) ∧
    ((opField w).toNat < 5 ↔ r.mnemonic ∈ ["ENC_NIB", "DEC_NIB", "ENC_BYTE", "DEC_BYTE", "DEC_BYTE_SINGLE"]) ∧
    (5 ≤ (opField w).toNat ↔ r.mnemonic ∈ ["RESERVED_5", "RESERVED_6_7", "RESERVED_8_F"])) ∧
  (∀ r ∈ opcodeTable, r.mask &&& 0x0FFFF#20 = 0x00000#20) ∧
  (∀ r ∈ opcodeTable, r.mnemonic ∈ ["ENC_NIB", "DEC_NIB", "ENC_BYTE", "DEC_BYTE", "DEC_BYTE_SINGLE"] →
    r.mask = 0xF0000#20)

/-- Words written out from 95_test_vectors.md section 4 and R68's example decode to the operations they stand for. -/
def Obligations.ListedWordsDecode : Prop :=
  decode 0x00100#20 = .encNib 0x01#8 0x00#8 ∧ decode 0x12300#20 = .decNib 0x23#8 0x00#8 ∧
  decode 0x2B100#20 = .encByte 0xB1#8 0x00#8 ∧ decode 0x32A55#20 = .decByte 0x2A#8 0x55#8 ∧
  decode 0x46900#20 = .decByteSingle 0x69#8 0x00#8 ∧ decode 0x5FFFF#20 = .reserved5 0xFF#8 0xFF#8 ∧
  decode 0x7FFFF#20 = .reserved6To7 0x7#4 0xFF#8 0xFF#8 ∧ decode 0xF1234#20 = .reserved8ToF 0xF#4 0x12#8 0x34#8

/-- A step runs the decoded operation: the next word leaves the host's list and its operation is executed; with an
empty list the step changes nothing (the model's choice, log entry 5). -/
def Obligations.StepRunsTheNextOperation : Prop :=
  (∀ (s : State) (w : Command) (rest : List Command), s.program = w :: rest →
    step s = exec (decode w) { s with program := rest }) ∧
  (∀ (s : State) (i : Instr) (rest : List Command), i.wellFormed = true → s.program = encode i :: rest →
    step s = exec i { s with program := rest }) ∧
  (∀ s : State, s.program = [] → step s = .next s)

/-- Every operation, the reserved ones included, gives a result for every input, and there is no fault a step could
give (60_exceptions.md R70). Two parts are the model's choice: that a step with no word left answers next (log entry 5,
DESIGN CHOICE; R70 says only that it does not fault), and that an ill-formed term runs as the reserved zeros (log entry 13,
DESIGN CHOICE). -/
def Obligations.NothingEverFaults : Prop :=
  (∀ (i : Instr) (s : State), ∃ (t : State) (r : Result), exec i s = .next t ∧ t.results = s.results ++ [r]) ∧
  (∀ s : State, ∃ t : State, step s = .next t) ∧ (Fault → False)

/-- The frame of every operation: it drives the three pins, appends one result, and changes nothing else (there are no
registers, flags or memory to change: 10_state.md R15 to R20, 20_memory.md R30). -/
def Obligations.OperationsChangeOnlyPinsAndResults : Prop :=
  ∀ (i : Instr) (s t : State), exec i s = .next t →
    t.build = s.build ∧ t.program = s.program ∧ t.pins = ⟨i.op, i.a, i.b⟩ ∧ ∃ r : Result, t.results = s.results ++ [r]

/-! ### The result of each operation -/

/-- 40_nibble_codec.md R62: ENC_NIB. The codeword is also pinned down by the parity contract of R49 and R50. -/
def Obligations.EncNibResult : Prop :=
  ∀ (a b : Byte) (s : State),
    encode (.encNib a b) = 0x0#4 ++ a ++ b ∧ ⟨"ENC_NIB", 0x00000#20, 0xF0000#20⟩ ∈ opcodeTable ∧
    exec (.encNib a b) s =
      .next { s with pins := ⟨0x0#4, a, b⟩,
                     results := s.results ++ [⟨enc7 (a.extractLsb' 0 4), 0x00#8, statusIf s.build 0x0#4⟩] } ∧
    IsCodewordOf (a.extractLsb' 0 4) (enc7 (a.extractLsb' 0 4))

/-- 40_nibble_codec.md R63: DEC_NIB. The value and the class are those of the correction table (R56, R59). -/
def Obligations.DecNibResult : Prop :=
  ∀ (a b : Byte) (s : State),
    encode (.decNib a b) = 0x1#4 ++ a ++ b ∧ ⟨"DEC_NIB", 0x10000#20, 0xF0000#20⟩ ∈ opcodeTable ∧
    exec (.decNib a b) s =
      .next { s with pins := ⟨0x1#4, a, b⟩,
                     results := s.results ++ [⟨dec4 a, 0x00#8, statusIf s.build (0b00#2 ++ cls a)⟩] } ∧
    dec4 a = widen (tableNibble a) ∧ cls a = tableClass a

/-- 41_byte_codec.md R65: ENC_BYTE, high codeword on `y0`, low codeword on `y1`. -/
def Obligations.EncByteResult : Prop :=
  ∀ (a b : Byte) (s : State),
    encode (.encByte a b) = 0x2#4 ++ a ++ b ∧ ⟨"ENC_BYTE", 0x20000#20, 0xF0000#20⟩ ∈ opcodeTable ∧
    exec (.encByte a b) s =
      .next { s with pins := ⟨0x2#4, a, b⟩,
                     results := s.results ++
                       [⟨enc7 (a.extractLsb' 4 4), enc7 (a.extractLsb' 0 4), statusIf s.build 0x0#4⟩] } ∧
    IsCodewordOf (a.extractLsb' 4 4) (enc7 (a.extractLsb' 4 4)) ∧
    IsCodewordOf (a.extractLsb' 0 4) (enc7 (a.extractLsb' 0 4))

/-- 41_byte_codec.md R66: DEC_BYTE, also as the source writes it, `(high << 4) | low`, with its round trip. -/
def Obligations.DecByteResult : Prop :=
  ∀ (a b : Byte) (s : State),
    encode (.decByte a b) = 0x3#4 ++ a ++ b ∧ ⟨"DEC_BYTE", 0x30000#20, 0xF0000#20⟩ ∈ opcodeTable ∧
    (∃ y0 : Byte, exec (.decByte a b) s =
      .next { s with pins := ⟨0x3#4, a, b⟩,
                     results := s.results ++ [⟨y0, 0x00#8, statusIf s.build (cls a ++ cls b)⟩] } ∧
      y0 = tableNibble a ++ tableNibble b ∧ y0 = (dec4 a <<< 4) ||| dec4 b) ∧
    (∀ x c : Byte, ∃ (t u : State) (r : Result), exec (.encByte x c) s = .next t ∧ t.results = s.results ++ [r] ∧
      exec (.decByte r.y0 r.y1) t = .next u ∧ (u.results.getLast?.map Result.y0) = some x)

/-- 41_byte_codec.md R67: DEC_BYTE_SINGLE; for every `a` its result is DEC_NIB's, whatever `b` is. -/
def Obligations.DecByteSingleResult : Prop :=
  ∀ (a b c : Byte) (s : State),
    encode (.decByteSingle a b) = 0x4#4 ++ a ++ b ∧ ⟨"DEC_BYTE_SINGLE", 0x40000#20, 0xF0000#20⟩ ∈ opcodeTable ∧
    ∃ r : Result,
      exec (.decByteSingle a b) s = .next { s with pins := ⟨0x4#4, a, b⟩, results := s.results ++ [r] } ∧
      r = ⟨(dec4 0x00#8).extractLsb' 0 4 ++ (dec4 a).extractLsb' 0 4, 0x00#8, statusIf s.build (cls 0x00#8 ++ cls a)⟩ ∧
      r.y0 = dec4 a ∧ r.st = statusIf s.build (0b00#2 ++ cls a) ∧ r.y0.toNat < 16 ∧
      exec (.decNib a c) s = .next { s with pins := ⟨0x1#4, a, c⟩, results := s.results ++ [r] }

/-- Every reserved value gives zeros and raises nothing (41_byte_codec.md R68, 60_exceptions.md R72). Where clauses 2 and
3 take an `op` outside their row, 0x0 to 0x4 among them, the term is ill-formed, and that it drives its own `op` and gives
the zeros is the model's choice (log entry 13, DESIGN CHOICE); the fourth clause is about command words only. -/
def Obligations.ReservedOpsGiveZeros : Prop :=
  (∀ (a b : Byte) (s : State), exec (.reserved5 a b) s =
    .next { s with pins := ⟨0x5#4, a, b⟩, results := s.results ++ [⟨0x00#8, 0x00#8, statusIf s.build 0x0#4⟩] }) ∧
  (∀ (op : OpField) (a b : Byte) (s : State), exec (.reserved6To7 op a b) s =
    .next { s with pins := ⟨op, a, b⟩, results := s.results ++ [⟨0x00#8, 0x00#8, statusIf s.build 0x0#4⟩] }) ∧
  (∀ (op : OpField) (a b : Byte) (s : State), exec (.reserved8ToF op a b) s =
    .next { s with pins := ⟨op, a, b⟩, results := s.results ++ [⟨0x00#8, 0x00#8, statusIf s.build 0x0#4⟩] }) ∧
  (∀ (op : OpField) (a b : Byte) (s : State), 5 ≤ op.toNat → exec (decode (op ++ a ++ b)) s =
    .next { s with pins := ⟨op, a, b⟩, results := s.results ++ [⟨0x00#8, 0x00#8, statusIf s.build 0x0#4⟩] }) ∧
  (⟨"RESERVED_5", 0x50000#20, 0xF0000#20⟩ ∈ opcodeTable ∧ ⟨"RESERVED_6_7", 0x60000#20, 0xE0000#20⟩ ∈ opcodeTable ∧
    ⟨"RESERVED_8_F", 0x80000#20, 0x80000#20⟩ ∈ opcodeTable)

/-- 30_encoding.md R39: an operand bit outside the table's "reads" column never changes any output. -/
def Obligations.IgnoredOperandBitsNeverMatter : Prop :=
  ∀ (i j : Instr) (s : State), i.wellFormed = true → j.wellFormed = true → i.op = j.op →
    i.a &&& readsA i.op = j.a &&& readsA i.op → i.b &&& readsB i.op = j.b &&& readsB i.op →
    ∃ (t u : State) (r : Result), exec i s = .next t ∧ exec j s = .next u ∧ t.results = s.results ++ [r] ∧ u.results = s.results ++ [r]

/-- 41_byte_codec.md R64: no bit of one lane affects any result bit of the other, and each lane is the nibble codec. -/
def Obligations.LanesAreIndependentNibbleCodecs : Prop :=
  (∀ (h l h' l' : Byte) (s : State), ∃ (t : State) (r1 r2 r3 : Result),
    exec (.decByte h l) s = .next t ∧ t.results = s.results ++ [r1] ∧
    (∃ u : State, exec (.decByte h l') s = .next u ∧ u.results = s.results ++ [r2]) ∧
    (∃ u : State, exec (.decByte h' l) s = .next u ∧ u.results = s.results ++ [r3]) ∧
    r1.y0.extractLsb' 4 4 = r2.y0.extractLsb' 4 4 ∧
    r1.st.map (BitVec.extractLsb' 2 2) = r2.st.map (BitVec.extractLsb' 2 2) ∧
    r1.y0.extractLsb' 0 4 = r3.y0.extractLsb' 0 4 ∧
    r1.st.map (BitVec.extractLsb' 0 2) = r3.st.map (BitVec.extractLsb' 0 2) ∧
    ∃ (u v : State) (rh rl : Result), exec (.decNib h l) s = .next u ∧ u.results = s.results ++ [rh] ∧
      exec (.decNib l h) s = .next v ∧ v.results = s.results ++ [rl] ∧
      r1.y0 = rh.y0.extractLsb' 0 4 ++ rl.y0.extractLsb' 0 4) ∧
  (∀ (h l : Nibble) (b c d : Byte) (s : State), ∃ (t : State) (r : Result) (u v : State) (rh rl : Result),
    exec (.encByte (h ++ l) b) s = .next t ∧ t.results = s.results ++ [r] ∧
    exec (.encNib (widen h) c) s = .next u ∧ u.results = s.results ++ [rh] ∧
    exec (.encNib (widen l) d) s = .next v ∧ v.results = s.results ++ [rl] ∧
    r.y0 = rh.y0 ∧ r.y1 = rl.y0)

/-- The optional port never changes a value: on two builds the same operation gives the same `y0` and `y1`, and `st`
is there exactly when the build has the port (10_state.md R17, R23, 40_nibble_codec.md R59). -/
def Obligations.StatusPortNeverChangesValues : Prop :=
  ∀ (i : Instr) (s : State) (bd : Build), ∃ (t u : State) (r q : Result),
    exec i s = .next t ∧ t.results = s.results ++ [r] ∧
    exec i { s with build := bd } = .next u ∧ u.results = s.results ++ [q] ∧
    r.y0 = q.y0 ∧ r.y1 = q.y1 ∧ r.st.isSome = s.build.statusPort ∧ q.st.isSome = bd.statusPort

/-! ### The codec functions -/

/-- 40_nibble_codec.md R52: what ENC_NIB drives on `y0` is what the source's toggling algorithm gives, and what the
exclusive-or of one column per data bit gives. -/
def Obligations.EncNibAgreesWithTogglingAndColumns : Prop :=
  ∀ (a b : Byte) (s : State), ∃ (t : State) (r : Result),
    exec (.encNib a b) s = .next t ∧ t.results = s.results ++ [r] ∧
    r.y0 = enc7 (a.extractLsb' 0 4) ∧ enc7Toggling (a.extractLsb' 0 4) = r.y0 ∧ enc7Columns (a.extractLsb' 0 4) = r.y0

/-- 40_nibble_codec.md R49, R50, R51, R53: a container is laid out as R49 says, carries the data bits of `a[3:0]` and
has each parity group even exactly when it is what ENC_NIB drives on `y0`. -/
def Obligations.EncNibGivesTheOnlyEvenParityCodeword : Prop :=
  ∀ (a b : Byte) (s : State), ∃ (t : State) (r : Result),
    exec (.encNib a b) s = .next t ∧ t.results = s.results ++ [r] ∧
    ∀ c : Byte, IsCodewordOf (a.extractLsb' 0 4) c ↔ c = r.y0

/-- 40_nibble_codec.md R55: the order of `S`; the syndrome depends only on which bits were flipped; a single flip of
container bit `k` is read off as position `7 - k`. -/
def Obligations.SyndromeDependsOnTheErrorOnly : Prop :=
  (∀ c : Byte, (syn c).number = syndromeOf c) ∧
  (∀ (n : Nibble) (e : Byte), syn (enc7 n ^^^ e) = syn e) ∧
  (∀ (n : Nibble) (k : Fin 7), let s := syn (enc7 n ^^^ (1#8 <<< k.val))
    4 * s.s3.toNat + 2 * s.s2.toNat + s.s1.toNat = 7 - k.val)

/-- 40_nibble_codec.md R58: container bit 7 never changes what DEC_NIB answers, and the answer is 0 to 15. -/
def Obligations.DecNibIgnoresBit7AndAnswersANibble : Prop :=
  ∀ (c b : Byte) (s : State), ∃ (t u : State) (r : Result),
    exec (.decNib c b) s = .next t ∧ t.results = s.results ++ [r] ∧
    exec (.decNib (c ^^^ 0x80#8) b) s = .next u ∧ u.results = s.results ++ [r] ∧
    dec4 c = dec4 (c ^^^ 0x80#8) ∧ r.y0 = dec4 c ∧ r.y0.toNat < 16

/-- 40_nibble_codec.md R60, through the machine: round trip, correction of every single flip, flips of a parity bit,
the no-error class and bit 7, each with the class the port shows. -/
def Obligations.SingleErrorsAreCorrected : Prop :=
  ∀ (n : Nibble) (b : Byte) (s : State),
    (∃ y : State, exec (.encNib (widen n) b) s = .next y ∧ ∃ r : Result, y.results = s.results ++ [r] ∧
      ∃ t : State, exec (.decNib r.y0 b) y = .next t ∧
        t.results = s.results ++ [r, ⟨widen n, 0x00#8, statusIf s.build 0x0#4⟩]) ∧
    syn (enc7 n) = ⟨0#1, 0#1, 0#1⟩ ∧
    (∀ k : Fin 7, ∃ t : State, exec (.decNib (enc7 n ^^^ (1#8 <<< k.val)) b) s = .next t ∧
      t.results = s.results ++ [⟨widen n, 0x00#8,
        statusIf s.build (if k.val = 6 ∨ k.val = 5 ∨ k.val = 3 then 0x2#4 else 0x1#4)⟩]) ∧
    (∃ t : State, exec (.decNib (enc7 n ||| 0x80#8) b) s = .next t ∧
      t.results = s.results ++ [⟨widen n, 0x00#8, statusIf s.build 0x0#4⟩])

/-- 40_nibble_codec.md R61: what the decoder does with two or more flipped bits, exactly, and that nothing signals it. -/
def Obligations.MultiBitErrorsAreSilent : Prop :=
  (∀ (n : Nibble) (e b : Byte) (s : State), e.getLsbD 7 = false → 2 ≤ weight e →
    ∃ (t : State) (r : Result), exec (.decNib (enc7 n ^^^ e) b) s = .next t ∧ t.results = s.results ++ [r] ∧
      r.y0 = widen (tableNibble (enc7 n ^^^ e)) ∧ r.y0 ≠ widen n ∧
      (weight e = 2 → (syn (enc7 n ^^^ e)).number ≠ 0b000#3) ∧
      ((syn (enc7 n ^^^ e)).number = 0b000#3 ↔ ∃ m : Nibble, m ≠ 0x0#4 ∧ e = enc7 m) ∧
      (∀ m : Nibble, e = enc7 m → r.y0 = widen (n ^^^ m) ∧ cls (enc7 n ^^^ e) = 0b00#2) ∧
      (s.build.statusPort = false → ∃ m : Nibble, ∃ u : State, exec (.decNib (enc7 m) b) s = .next u ∧
        u.results = s.results ++ [r])) ∧
  (let pairs := (List.range 128).filter fun e => weight (BitVec.ofNat 8 e) = 2
   pairs.length = 21 ∧
   (pairs.filter fun e => cls (BitVec.ofNat 8 e) = 0b01#2).length = 12 ∧
   (pairs.filter fun e => cls (BitVec.ofNat 8 e) = 0b10#2).length = 9) ∧
  (let words := (List.range 16).map fun n => weight (enc7 (BitVec.ofNat 4 n))
   words.count 3 = 7 ∧ words.count 4 = 7 ∧ words.count 7 = 1 ∧ words.count 0 = 1)

/-- The code is perfect: DEC_NIB answers the one nibble whose codeword differs from the seven received bits in at most
one place (a consequence of 40_nibble_codec.md R51 and R57). -/
def Obligations.DecNibAnswersTheNearestCodeword : Prop :=
  ∀ (a b : Byte) (s : State), ∃ (t : State) (r : Result), exec (.decNib a b) s = .next t ∧ t.results = s.results ++ [r] ∧
    ∃ n : Nibble, r.y0 = widen n ∧ weight ((enc7 n ^^^ a) &&& 0x7F#8) ≤ 1 ∧
      ∀ m : Nibble, weight ((enc7 m ^^^ a) &&& 0x7F#8) ≤ 1 → m = n

/-- A byte survives at most one flipped bit in each of its two codewords, whatever the two bits 7 are
(41_byte_codec.md R64 to R66, 40_nibble_codec.md R60). -/
def Obligations.ByteSurvivesOneErrorPerCodeword : Prop :=
  ∀ (x b e f : Byte) (s : State), weight (e &&& 0x7F#8) ≤ 1 → weight (f &&& 0x7F#8) ≤ 1 →
    ∃ (t u : State) (r q : Result), exec (.encByte x b) s = .next t ∧ t.results = s.results ++ [r] ∧
      exec (.decByte (r.y0 ^^^ e) (r.y1 ^^^ f)) t = .next u ∧ u.results = s.results ++ [r, q] ∧
      q.y0 = x ∧ q.y1 = 0x00#8

/-- 41_byte_codec.md R69: the two packed views of a pair of outputs, as arithmetic, and for ENC_BYTE 177. -/
def Obligations.PackedViewsOfACodewordPair : Prop :=
  (∀ r : Result, r.p16.toNat = r.y0.toNat * 0x100 + r.y1.toNat ∧
    r.p14.toNat = (r.y0.toNat % 0x80) * 0x80 + r.y1.toNat % 0x80) ∧
  ∀ (b : Byte) (s : State), ∃ (t : State) (r : Result), exec (.encByte 177#8 b) s = .next t ∧ t.results = s.results ++ [r] ∧
    r.p16 = 0x3369#16 ∧ r.p14 = 0x19E9#14

/-! ### Runs, instances, pins -/

/-- A step's result is `core` of its own word alone: two states of one build that agree on the next word, and on
nothing else, sample the same result and drive the same pins (10_state.md R23, 20_memory.md R32). -/
def Obligations.ResultDependsOnTheWordAlone : Prop :=
  ∀ (s t : State) (w : Command) (p q : List Command), s.build = t.build → s.program = w :: p → t.program = w :: q →
    step s = .next { s with program := p, pins := pinsOf w, results := s.results ++ [coreFn s.build (pinsOf w)] } ∧
    step t = .next { t with program := q, pins := pinsOf w, results := t.results ++ [coreFn s.build (pinsOf w)] }

/-- 70_reset_and_hazards.md R94: running a list of words gives the list of their results, each `core` of its own word,
whatever the start state. -/
def Obligations.RunYieldsCoreOfEveryWord : Prop :=
  ∀ s : State, ∃ t : State, Sys2Proof.core.run s.program.length s = .next t ∧
    t.results = s.results ++ s.program.map (fun w => coreFn s.build (pinsOf w)) ∧
    t.program = [] ∧ t.build = s.build ∧ t.pins = (s.program.getLast?.map pinsOf).getD s.pins

/-- A run ends when its last word's result is sampled and does not go on: further steps change nothing
(70_reset_and_hazards.md R95; that a step past the end is idle is the model's choice, log entry 5). -/
def Obligations.RunEndsAfterItsLastWord : Prop :=
  ∀ (s : State) (k : Nat),
    Sys2Proof.core.run (s.program.length + k) s = Sys2Proof.core.run s.program.length s ∧
    ∀ j, j < s.program.length → ∃ t : State, Sys2Proof.core.run j s = .next t ∧ t.program = s.program.drop j

/-- A transaction may be repeated or left out without changing any other's result (20_memory.md R30). -/
def Obligations.RepeatingOrDroppingChangesNoOtherResult : Prop :=
  ∀ (s : State) (us vs : List Command) (w : Command), s.program = [] → ∃ ru rw rv,
    (∃ t : State, Sys2Proof.core.run (us.length + 1 + vs.length) (s.load (us ++ [w] ++ vs)) = .next t ∧
      t.results = s.results ++ ru ++ [rw] ++ rv) ∧
    (∃ t : State, Sys2Proof.core.run (us.length + 2 + vs.length) (s.load (us ++ [w, w] ++ vs)) = .next t ∧
      t.results = s.results ++ ru ++ [rw, rw] ++ rv) ∧
    (∃ t : State, Sys2Proof.core.run (us.length + vs.length) (s.load (us ++ vs)) = .next t ∧
      t.results = s.results ++ ru ++ rv) ∧ ru.length = us.length ∧ rv.length = vs.length

/-- No run changes the build (10_state.md R18). -/
def Obligations.NoRunChangesTheBuild : Prop :=
  ∀ (k : Nat) (s t : State), Sys2Proof.core.run k s = .next t → t.build = s.build

/-- Instances never interact: after any interleaving each instance is where its own steps alone take it
(20_memory.md R32, 60_exceptions.md R82). That EVERY order answers next rests on two choices of the model: a step of an
absent instance does nothing (log entry 14, DESIGN CHOICE) and a step with no word left changes nothing (log entry 5,
DESIGN CHOICE). -/
def Obligations.InstancesNeverInteract : Prop :=
  ∀ (m : System) (order : List Nat), ∃ n : System, m.run order = .next n ∧ n.length = m.length ∧
    ∀ (k : Nat) (s : State), m[k]? = some s →
      ∃ t : State, n[k]? = some t ∧ Sys2Proof.core.run (order.count k) s = .next t

/-- After any input changes, once settled, the outputs are `core` of the current inputs, and before that no sample is
allowed (70_reset_and_hazards.md R86). The last clause is the model's choice (log entry 9, DESIGN CHOICE): R86 says any
value, the model a free value numbered by its own counter of reads, with `st` absent on a build without the port. That
every `drive` unsettles, also one of the levels that stand, is the model's choice too (log entry 19, DESIGN CHOICE). -/
def Obligations.SettledPinsShowCore : Prop :=
  ∀ (c : Combinational) (ps : List Pins) (p : Pins),
    (((c.driveAll ps).drive p).settle).sample = some (coreFn c.build p) ∧
    (((c.driveAll ps).drive p).settle).read.1 = coreFn c.build p ∧
    ((c.driveAll ps).drive p).sample = none ∧
    ((c.driveAll ps).drive p).read.1 = (linesOutputs (Config.unsettledLines c.reads)).seen c.build

/-- One transaction of the untimed machine is what a host that follows the sampling duty sees at the pins of a
combinational implementation (70_reset_and_hazards.md R90, R91). -/
def Obligations.StepIsADutifulSampleAtThePins : Prop :=
  ∀ (s : State) (w : Command) (rest : List Command) (c : Combinational), s.program = w :: rest → c.build = s.build →
    ∃ (t : State) (r : Result), step s = .next t ∧ t.results = s.results ++ [r] ∧
      ((c.drive (pinsOf w)).settle).sample = some r ∧ t.outputs = r

/-- 70_reset_and_hazards.md R87, R91: in a pipeline of any latency, the result of the inputs captured at an edge is on
the outputs `LATENCY` edges later, whatever was in flight before; edges keep the pipe's shape; and before the first
result is due no sample is allowed. The shape of `LATENCY + 1` results is the model's (log entry 8, DEDUCED), and so is
the pipe of latency 0 this includes, where the spec speaks of `LATENCY > 0` only; that every edge captures is log entry 20
(DESIGN CHOICE). -/
def Obligations.PipelineDelaysByItsLatency : Prop :=
  (∀ (p : Pipe) (i : Pins) (later : List Pins), p.wellFormed = true → later.length = p.latency →
    (p.edges (i :: later)).outputs = some (coreFn p.build i) ∧ (p.edges (i :: later)).wellFormed = true) ∧
  (∀ (bd : Build) (L : Nat) (ins : List Pins), (Pipe.powerUp bd L).wellFormed = true ∧
    (ins.length ≤ L → ((Pipe.powerUp bd L).edges ins).sample = none))

/-- A pipeline of any latency refines the untimed machine: from power-up, the samples a dutiful host takes over the
words and then `LATENCY` more edges are the results of the untimed run (70_reset_and_hazards.md R87, R90, R91, R94). It
includes the model's pipe of latency 0, which the spec does not describe (log entry 8, DEDUCED), and takes one word an
edge, since every edge captures (log entry 20, DESIGN CHOICE). -/
def Obligations.PipelineRefinesTheUntimedRun : Prop :=
  ∀ (bd : Build) (pins : Pins) (ws : List Command) (L : Nat) (flush : List Pins), flush.length = L →
    ∃ t : State, Sys2Proof.core.run ws.length { build := bd, pins := pins, program := ws, results := [] } = .next t ∧
      (Pipe.powerUp bd L).samples (ws.map pinsOf ++ flush) = t.results

/-! ### The host side -/

/-- 30_encoding.md R45, the meaning of a line: one operand goes in `a` and `b` is 0; DEC_BYTE takes two; an operand
above 255 is refused, not truncated; `.word` gives any 20-bit word and only those; a comment after `;` changes nothing. -/
def Obligations.AssemblerLinesGiveTheirWords : Prop :=
  (∀ x : Nat, x < 256 → let a := BitVec.ofNat 8 x
    (Line.encNib x).assemble = .ok (0x0#4 ++ a ++ 0x00#8) ∧ (Line.decNib x).assemble = .ok (0x1#4 ++ a ++ 0x00#8) ∧
    (Line.encByte x).assemble = .ok (0x2#4 ++ a ++ 0x00#8) ∧
    (Line.decByteSingle x).assemble = .ok (0x4#4 ++ a ++ 0x00#8)) ∧
  (∀ h l : Nat, h < 256 → l < 256 →
    (Line.decByte h l).assemble = .ok (0x3#4 ++ BitVec.ofNat 8 h ++ BitVec.ofNat 8 l)) ∧
  (∀ x y : Nat, 256 ≤ x → ∀ l ∈ [Line.encNib x, .decNib x, .encByte x, .decByteSingle x, .decByte x y, .decByte y x],
    l.assemble = .error .operandTooLarge) ∧
  (∀ w : Command, (Line.word w.toNat).assemble = .ok w) ∧
  (∀ w : Nat, 2 ^ 20 ≤ w → (Line.word w).assemble = .error .wordTooLarge) ∧
  (∀ text comment : String, assembleText (text ++ ";" ++ comment) = assembleText text)

/-- 00_scope.md R6: eight characters, the most significant bit first, with leading zeros. -/
def Obligations.FormatBinary8MostSignificantFirst : Prop :=
  ∀ v : Byte, (formatBinary8 v).toList.length = 8 ∧
    ∀ i : Fin 8, (formatBinary8 v).toList[i.val]? = some (if v.getLsbD (7 - i.val) then '1' else '0')
end

