-- ==== Sys2Proof/Laws/Codec.lean ====
section
/-! SUPPORT. What callers need of the encoder, the decoder and the class, so that none of them is unfolded again.
Each is a closed fact about 16 or 256 containers. -/

namespace Sys2Proof.Machine

/-- Container bit 7 of every codeword is 0 (40_nibble_codec.md R53). -/
theorem enc7_bit7 : ∀ n : Nibble, (enc7 n).getLsbD 7 = false := by decide

/-- A decoded container's upper half is zero (40_nibble_codec.md R58). -/
theorem dec4_eq_append_lowNibble : ∀ c : Byte, dec4 c = 0x0#4 ++ lowNibble (dec4 c) := by decide +kernel

/-- The decoder does not read bit 7 (40_nibble_codec.md R58). -/
theorem dec4_mask : ∀ c : Byte, dec4 (c &&& 0x7F#8) = dec4 c := by decide +kernel

/-- The class does not read bit 7 (40_nibble_codec.md R54, R59). -/
theorem cls_mask : ∀ c : Byte, cls (c &&& 0x7F#8) = cls c := by decide +kernel

/-- Class 11 is never produced (40_nibble_codec.md R59). -/
theorem cls_ne_three : ∀ c : Byte, cls c ≠ 0b11#2 := by decide +kernel

theorem dec4_zero : dec4 0x00#8 = 0x00#8 := by decide

theorem cls_zero : cls 0x00#8 = 0b00#2 := by decide

/-- DEC_BYTE_SINGLE's outputs are DEC_NIB's (41_byte_codec.md R67). -/
theorem decByteSingleOutputs_eq_decNibOutputs (a : Byte) : decByteSingleOutputs a = decNibOutputs a := by
  have h : lowNibble (dec4 0x00#8) = 0x0#4 := by decide
  simp only [decByteSingleOutputs, decNibOutputs, h, cls_zero, ← dec4_eq_append_lowNibble]

end Sys2Proof.Machine
end

