-- ==== Sys2Proof/Laws/Decode.lean ====
section
/-! SUPPORT. The fields of a packed word, and what the decoder reads from one. -/

namespace Sys2Proof

@[simp] theorem opField_pack (op : OpField) (a b : Byte) : opField (pack op a b) = op := by
  ext i hi
  simp only [opField, pack, BitVec.getElem_extractLsb', BitVec.getLsbD_append]
  rw [if_neg (by omega), if_neg (by omega)]
  exact (BitVec.getLsbD_eq_getElem (by omega)).trans (by congr 1; omega)

@[simp] theorem aField_pack (op : OpField) (a b : Byte) : aField (pack op a b) = a := by
  ext i hi
  simp only [aField, pack, BitVec.getElem_extractLsb', BitVec.getLsbD_append]
  rw [if_neg (by omega), if_pos (by omega)]
  exact (BitVec.getLsbD_eq_getElem (by omega)).trans (by congr 1; omega)

@[simp] theorem bField_pack (op : OpField) (a b : Byte) : bField (pack op a b) = b := by
  ext i hi
  simp only [bField, pack, BitVec.getElem_extractLsb', BitVec.getLsbD_append]
  rw [if_pos (by omega)]
  exact (BitVec.getLsbD_eq_getElem (by omega)).trans (by congr 1; omega)

/-- A masked packed word, when the mask and the bits stand in the operation field alone. -/
theorem pack_and_opMask (op m : OpField) (a b : Byte) :
    pack op a b &&& (m ++ 0x00#8 ++ 0x00#8) = (op &&& m) ++ 0x00#8 ++ 0x00#8 := by
  have outer : (op ++ a ++ b) &&& (m ++ 0x00#8 ++ 0x00#8) = ((op ++ a) &&& (m ++ 0x00#8)) ++ (b &&& 0x00#8) :=
    BitVec.and_append
  have inner : (op ++ a) &&& (m ++ 0x00#8) = (op &&& m) ++ (a &&& 0x00#8) := BitVec.and_append
  rw [inner, BitVec.and_zero, BitVec.and_zero] at outer
  exact outer

theorem decode_pack (op : OpField) (a b : Byte) : decode (pack op a b) = decodeFields op a b := by
  simp only [decode, opField_pack, aField_pack, bField_pack]

/-- Decoding keeps the operation select and both operands: no bit of a word is dropped (30_encoding.md R37). -/
theorem decodeFields_fields (op : OpField) (a b : Byte) :
    (decodeFields op a b).op = op ∧ (decodeFields op a b).a = a ∧ (decodeFields op a b).b = b := by
  unfold decodeFields
  repeat' split
  all_goals simp_all [Instr.op, Instr.a, Instr.b]

/-- Every row decoded to is one its operation select belongs to (30_encoding.md R42). -/
theorem decodeFields_wellFormed (op : OpField) (a b : Byte) : (decodeFields op a b).wellFormed = true := by
  have h : ∀ op : OpField, op = 0x0#4 ∨ op = 0x1#4 ∨ op = 0x2#4 ∨ op = 0x3#4 ∨ op = 0x4#4 ∨ op = 0x5#4 ∨
      op &&& 0xE#4 = 0x6#4 ∨ op &&& 0x8#4 = 0x8#4 := by decide
  have h := h op
  unfold decodeFields
  repeat' split
  all_goals simp_all [Instr.wellFormed]

end Sys2Proof
end

