-- ==== Sys2Proof/Laws/State.lean ====
section
/-! SUPPORT. One lemma per field per update of State, and the parts of a seen result. -/

namespace Sys2Proof.Machine

@[simp] theorem State.sampled_build (s : State) (p : Pins) (r : Result) : (s.sampled p r).build = s.build := rfl
@[simp] theorem State.sampled_pins (s : State) (p : Pins) (r : Result) : (s.sampled p r).pins = p := rfl
@[simp] theorem State.sampled_program (s : State) (p : Pins) (r : Result) :
    (s.sampled p r).program = s.program := rfl
@[simp] theorem State.sampled_results (s : State) (p : Pins) (r : Result) :
    (s.sampled p r).results = s.results ++ [r] := rfl

@[simp] theorem State.load_build (s : State) (ws : List Command) : (s.load ws).build = s.build := rfl
@[simp] theorem State.load_pins (s : State) (ws : List Command) : (s.load ws).pins = s.pins := rfl
@[simp] theorem State.load_program (s : State) (ws : List Command) : (s.load ws).program = s.program ++ ws := rfl
@[simp] theorem State.load_results (s : State) (ws : List Command) : (s.load ws).results = s.results := rfl

@[simp] theorem Outputs.seen_y0 (o : Outputs) (bd : Build) : (o.seen bd).y0 = o.y0 := rfl
@[simp] theorem Outputs.seen_y1 (o : Outputs) (bd : Build) : (o.seen bd).y1 = o.y1 := rfl
@[simp] theorem Outputs.seen_st (o : Outputs) (bd : Build) :
    (o.seen bd).st = if bd.statusPort then some o.st else none := rfl

end Sys2Proof.Machine
end

