-- ==== Sys2Proof/Laws/Exec.lean ====
section
/-! SUPPORT. What one transaction can do, said once: every meaning answers a next state, drives the pins with its own
fields and appends one result. -/

namespace Sys2Proof.Machine

/-- The shared operation answers next, always (60_exceptions.md R70). -/
theorem transact_eq (p : Pins) (o : Outputs) (s : State) :
    transact p o s = .next (s.sampled p (o.seen s.build)) := rfl

/-- Every operation, whatever its fields, makes one sampled transaction. -/
theorem exec_sampled (i : Instr) (s : State) : ∃ o : Outputs,
    exec i s = .next (s.sampled ⟨i.op, i.a, i.b⟩ (o.seen s.build)) := by
  cases i <;> exact ⟨_, rfl⟩

theorem coreOutputs_reserved (p : Pins) (h : p.op ≠ 0x0#4 ∧ p.op ≠ 0x1#4 ∧ p.op ≠ 0x2#4 ∧ p.op ≠ 0x3#4 ∧ p.op ≠ 0x4#4) :
    coreOutputs p = reservedOutputs := by
  obtain ⟨h0, h1, h2, h3, h4⟩ := h
  simp [coreOutputs, h0, h1, h2, h3, h4]

theorem op67_reserved : ∀ op : OpField, op &&& 0xE#4 = 0x6#4 →
    op ≠ 0x0#4 ∧ op ≠ 0x1#4 ∧ op ≠ 0x2#4 ∧ op ≠ 0x3#4 ∧ op ≠ 0x4#4 := by decide

theorem op8F_reserved : ∀ op : OpField, op &&& 0x8#4 = 0x8#4 →
    op ≠ 0x0#4 ∧ op ≠ 0x1#4 ∧ op ≠ 0x2#4 ∧ op ≠ 0x3#4 ∧ op ≠ 0x4#4 := by decide

/-- The dispatch agrees with the transaction function on every well-formed operation (10_state.md R23). -/
theorem exec_of_wellFormed (i : Instr) (hi : i.wellFormed = true) (s : State) :
    exec i s = .next (s.sampled ⟨i.op, i.a, i.b⟩ (coreFn s.build ⟨i.op, i.a, i.b⟩)) := by
  cases i with
  | reserved6To7 op a b =>
    rw [coreFn, coreOutputs_reserved _ (op67_reserved op (by simpa [Instr.wellFormed] using hi))]
    rfl
  | reserved8ToF op a b =>
    rw [coreFn, coreOutputs_reserved _ (op8F_reserved op (by simpa [Instr.wellFormed] using hi))]
    rfl
  | _ => rfl

end Sys2Proof.Machine
end

