-- ==== Sys2Proof/Laws/PerInstr.lean ====
section
/-! SUPPORT. Facts about each operation as syntax, one lemma per constructor. Family RowMatch: a well-formed
operation's command word matches a row of spec/opcode_table.json under the row's own mnemonic (30_encoding.md R42). -/

namespace Sys2Proof.Laws.RowMatch

/-- The row of the operation's mnemonic covers the operation's word. -/
def Statement (i : Instr) : Prop :=
  i.wellFormed = true → ∃ r ∈ opcodeTable, r.mnemonic = i.mnemonic ∧ r.covers (encode i) = true

/-- A row whose mask and bits stand in the operation field covers a packed word when the field agrees. -/
theorem covers_pack (name : String) (m v op : OpField) (a b : Byte) (h : op &&& m = v) :
    (OpcodeRow.mk name (v ++ 0x00#8 ++ 0x00#8) (m ++ 0x00#8 ++ 0x00#8)).covers (pack op a b) = true := by
  simp only [OpcodeRow.covers, pack_and_opMask, h, beq_self_eq_true]

theorem encNib (a b : Byte) : Statement (.encNib a b) := fun _ =>
  ⟨_, by simp [opcodeTable], rfl, covers_pack "ENC_NIB" 0xF#4 0x0#4 0x0#4 a b rfl⟩

theorem decNib (a b : Byte) : Statement (.decNib a b) := fun _ =>
  ⟨⟨"DEC_NIB", 0x10000#20, 0xF0000#20⟩, by simp [opcodeTable], rfl, covers_pack "DEC_NIB" 0xF#4 0x1#4 0x1#4 a b rfl⟩

theorem encByte (a b : Byte) : Statement (.encByte a b) := fun _ =>
  ⟨⟨"ENC_BYTE", 0x20000#20, 0xF0000#20⟩, by simp [opcodeTable], rfl,
    covers_pack "ENC_BYTE" 0xF#4 0x2#4 0x2#4 a b rfl⟩

theorem decByte (a b : Byte) : Statement (.decByte a b) := fun _ =>
  ⟨⟨"DEC_BYTE", 0x30000#20, 0xF0000#20⟩, by simp [opcodeTable], rfl,
    covers_pack "DEC_BYTE" 0xF#4 0x3#4 0x3#4 a b rfl⟩

theorem decByteSingle (a b : Byte) : Statement (.decByteSingle a b) := fun _ =>
  ⟨⟨"DEC_BYTE_SINGLE", 0x40000#20, 0xF0000#20⟩, by simp [opcodeTable], rfl,
    covers_pack "DEC_BYTE_SINGLE" 0xF#4 0x4#4 0x4#4 a b rfl⟩

theorem reserved5 (a b : Byte) : Statement (.reserved5 a b) := fun _ =>
  ⟨⟨"RESERVED_5", 0x50000#20, 0xF0000#20⟩, by simp [opcodeTable], rfl,
    covers_pack "RESERVED_5" 0xF#4 0x5#4 0x5#4 a b rfl⟩

theorem reserved6To7 (op : OpField) (a b : Byte) : Statement (.reserved6To7 op a b) := fun h =>
  ⟨⟨"RESERVED_6_7", 0x60000#20, 0xE0000#20⟩, by simp [opcodeTable], rfl,
    covers_pack "RESERVED_6_7" 0xE#4 0x6#4 op a b (by simpa [Instr.wellFormed] using h)⟩

theorem reserved8ToF (op : OpField) (a b : Byte) : Statement (.reserved8ToF op a b) := fun h =>
  ⟨⟨"RESERVED_8_F", 0x80000#20, 0x80000#20⟩, by simp [opcodeTable], rfl,
    covers_pack "RESERVED_8_F" 0x8#4 0x8#4 op a b (by simpa [Instr.wellFormed] using h)⟩

end Sys2Proof.Laws.RowMatch
end

