-- ==== Sys2Proof/Laws/Step.lean ====
section
/-! SUPPORT. What one step can do, said once, and the first and last step of a run. -/

namespace Sys2Proof.Machine

/-- With nothing left to present a step changes nothing (log entry 5). -/
theorem step_idle (s : State) (h : s.program = []) : step s = .next s := by
  simp only [step, nextCommand, h]

/-- A step takes the next word off the host's list and runs what it decodes to. -/
theorem step_present (s : State) (w : Command) (rest : List Command) (h : s.program = w :: rest) :
    step s = exec (decode w) { s with program := rest } := by
  simp only [step, nextCommand, h]

/-- The state a step on the word `w` leads to: the word is off the list, its pins are driven, its result is sampled. -/
theorem step_present_sampled (s : State) (w : Command) (rest : List Command) (h : s.program = w :: rest) :
    step s = .next ({ s with program := rest }.sampled (pinsOf w) (coreFn s.build (pinsOf w))) := by
  obtain ⟨hop, ha, hb⟩ := decodeFields_fields (opField w) (aField w) (bField w)
  rw [step_present s w rest h, decode, exec_of_wellFormed _ (decodeFields_wellFormed _ _ _), hop, ha, hb]
  rfl

/-- A step that answers next either found nothing to present or sampled one transaction. -/
theorem step_next_cases (s t : State) (h : step s = .next t) :
    (s.program = [] ∧ t = s) ∨ ∃ w rest, s.program = w :: rest ∧
      t = { s with program := rest }.sampled (pinsOf w) (coreFn s.build (pinsOf w)) := by
  cases hp : s.program with
  | nil =>
    rw [step_idle s hp] at h
    cases h
    exact .inl ⟨rfl, rfl⟩
  | cons w rest =>
    rw [step_present_sampled s w rest hp] at h
    cases h
    exact .inr ⟨w, rest, rfl, rfl⟩

/-- Any machine's run after a first step that answers next. -/
theorem run_succ_of_next (M : Host.Core) (k : Nat) (s t : M.State) (h : M.step s = .next t) :
    M.run (k + 1) s = M.run k t := by
  simp only [Host.Core.run, h]

/-- This machine's run after a first step. -/
theorem run_succ (k : Nat) (s t : State) (h : step s = .next t) :
    Sys2Proof.core.run (k + 1) s = Sys2Proof.core.run k t :=
  run_succ_of_next Sys2Proof.core k s t h

end Sys2Proof.Machine
end

