-- ==== Sys2Proof/Tests/Slice0.lean ====
section
/-! SUPPORT. The model's own tests. Expected values come from spec/ (95_test_vectors.md unless another file is named);
witnesses show that the hypotheses of the statements can be met. -/

namespace Sys2Proof.Tests

open Sys2Proof.Machine Sys2Proof.Spec

/-- A run's start on a build with or without the port. -/
def start (port : Bool) (ws : List Command) : State :=
  { build := ⟨port⟩, pins := ⟨0x0#4, 0x00#8, 0x00#8⟩, program := ws, results := [] }

/-- What one step sampled. -/
def sampledBy (s : State) : List Result :=
  match step s with
  | .next t => t.results
  | .fault _ => []
  | .refused _ => []

/-! ### Well-formedness: one ill-formed term for each check -/

theorem test_reserved6To7_refuses_op8 : (Instr.reserved6To7 0x8#4 0x00#8 0x00#8).wellFormed = false := by decide
theorem test_reserved6To7_refuses_op5 : (Instr.reserved6To7 0x5#4 0x00#8 0x00#8).wellFormed = false := by decide
theorem test_reserved8ToF_refuses_op7 : (Instr.reserved8ToF 0x7#4 0x00#8 0x00#8).wellFormed = false := by decide

/-! ### Decoding: words written out bit by bit, `oooo aaaaaaaa bbbbbbbb` (30_encoding.md R37, R38) -/

theorem test_decode_encNib : decode 0b0000_11110001_10101011#20 = .encNib 0xF1#8 0xAB#8 := by decide
theorem test_decode_decNib : decode 0b0001_00100011_00000000#20 = .decNib 0x23#8 0x00#8 := by decide
theorem test_decode_encByte : decode 0b0010_10110001_00000000#20 = .encByte 0xB1#8 0x00#8 := by decide
theorem test_decode_decByte : decode 0b0011_00101010_01010101#20 = .decByte 0x2A#8 0x55#8 := by decide
theorem test_decode_decByteSingle : decode 0b0100_01101001_01010101#20 = .decByteSingle 0x69#8 0x55#8 := by decide
theorem test_decode_reserved5 : decode 0b0101_11111111_00000001#20 = .reserved5 0xFF#8 0x01#8 := by decide
theorem test_decode_reserved6 : decode 0b0110_00000001_10000000#20 = .reserved6To7 0x6#4 0x01#8 0x80#8 := by decide
theorem test_decode_reserved7 : decode 0b0111_11111111_11111111#20 = .reserved6To7 0x7#4 0xFF#8 0xFF#8 := by decide
theorem test_decode_reserved8 : decode 0b1000_00000000_00000000#20 = .reserved8ToF 0x8#4 0x00#8 0x00#8 := by decide
theorem test_decode_reservedF : decode 0b1111_00010010_00110100#20 = .reserved8ToF 0xF#4 0x12#8 0x34#8 := by decide
theorem test_decode_rejects_21_bits : decodeNat 0x100000 = .error .notACommandWord := by decide
theorem test_decodeTableWord : decodeTableWord 24 0x32A55 = some (.decByte 0x2A#8 0x55#8) := by decide

/-! ### One transaction (95_test_vectors.md sections 2 and 3) -/

theorem test_encNib_masks_a_and_b : sampledBy (start true [0x0F1AB#20]) = [⟨0x69#8, 0x00#8, some 0x0#4⟩] := by decide
theorem test_encNib_default_build_has_no_st : sampledBy (start false [0x00B00#20]) = [⟨0x33#8, 0x00#8, none⟩] := by decide
theorem test_decNib_corrects_d1 : sampledBy (start true [0x12300#20]) = [⟨0x0B#8, 0x00#8, some 0x1#4⟩] := by decide
/-- 40_nibble_codec.md R63: a two-bit error is a wrong value, reported as a parity-bit error. -/
theorem test_decNib_two_errors : sampledBy (start true [0x13000#20]) = [⟨0x08#8, 0x00#8, some 0x2#4⟩] := by decide
/-- 90_conflicts.md C1: 0x33, not the source's 0x19. -/
theorem test_encByte_177 : sampledBy (start true [0x2B1FF#20]) = [⟨0x33#8, 0x69#8, some 0x0#4⟩] := by decide
theorem test_encByte_lanes_differ : sampledBy (start true [0x25A00#20]) = [⟨0x25#8, 0x5A#8, some 0x0#4⟩] := by decide
theorem test_decByte_two_lanes : sampledBy (start true [0x32254#20]) = [⟨0x2D#8, 0x00#8, some 0x9#4⟩] := by decide
theorem test_decByte_lane_isolation : sampledBy (start true [0x33069#20]) = [⟨0x81#8, 0x00#8, some 0x8#4⟩] := by decide
theorem test_decByteSingle_ignores_b :
    sampledBy (start true [0x46955#20]) = [⟨0x01#8, 0x00#8, some 0x0#4⟩] := by decide
theorem test_decByteSingle_corrects : sampledBy (start true [0x42300#20]) = [⟨0x0B#8, 0x00#8, some 0x1#4⟩] := by decide
theorem test_reserved5 : sampledBy (start true [0x5FFFF#20]) = [⟨0x00#8, 0x00#8, some 0x0#4⟩] := by decide
theorem test_reserved7 : sampledBy (start true [0x7FFFF#20]) = [⟨0x00#8, 0x00#8, some 0x0#4⟩] := by decide
theorem test_reservedF : sampledBy (start false [0xF1234#20]) = [⟨0x00#8, 0x00#8, none⟩] := by decide
theorem test_withFetchWord_runs_next :
    sampledBy ((start false [0x00000#20]).withFetchWord 24 0x32A55) = [⟨0x2D#8, 0x00#8, none⟩] := by decide

/-! ### Host side (95_test_vectors.md section 4, 00_scope.md R6) -/

theorem test_asm_binary_operand : assembleText "DEC_NIB 0b0100011 ; single flip" = .ok 0x12300#20 := by decide
theorem test_asm_two_operands : assembleText "DEC_BYTE 0x2A, 0x55" = .ok 0x32A55#20 := by decide
theorem test_asm_raw_word : assembleText ".word 0x7FFFF" = .ok 0x7FFFF#20 := by decide
theorem test_asm_refuses_256 : assembleText "ENC_BYTE 256" = .error .operandTooLarge := by decide
theorem test_asm_refuses_negative : assembleText "ENC_BYTE -1" = .error .badNumber := by decide
theorem test_asm_case_sensitive : assembleText "enc_byte 1" = .error .unknownMnemonic := by decide
theorem test_formatBinary8 : formatBinary8 0x69#8 = "01101001" := by decide

/-! ### Witnesses: states and operands that meet the hypotheses of the statements -/

theorem witness_StepKeepsTheRunInvariant : (start true [0x2B100#20]).Inv ∧ step (start true [0x2B100#20]) =
    .next ⟨⟨true⟩, ⟨0x2#4, 0xB1#8, 0x00#8⟩, [], [⟨0x33#8, 0x69#8, some 0x0#4⟩]⟩ :=
  ⟨⟨by simp [start], by simp [start]⟩, rfl⟩

theorem witness_DecodeOfEncodeIsIdentity : (Instr.encNib 0xFF#8 0x00#8).wellFormed = true ∧
    (Instr.reserved6To7 0x7#4 0xFF#8 0x00#8).wellFormed = true ∧
    (Instr.reserved8ToF 0xF#4 0x00#8 0xFF#8).wellFormed = true := by decide

theorem witness_OpFieldSelectsTheOperation : 5 ≤ (0x5#4).toNat ∧ 5 ≤ (0x6#4).toNat ∧ 5 ≤ (0x7#4).toNat ∧
    5 ≤ (0x8#4).toNat ∧ 5 ≤ (0xF#4).toNat := by decide

theorem witness_EveryWordMatchesExactlyOneRow :
    (⟨"RESERVED_6_7", 0x60000#20, 0xE0000#20⟩ : OpcodeRow) ∈ opcodeTable ∧
    (⟨"RESERVED_6_7", 0x60000#20, 0xE0000#20⟩ : OpcodeRow).covers 0x7FFFF#20 = true ∧
    (⟨"DEC_BYTE_SINGLE", 0x40000#20, 0xF0000#20⟩ : OpcodeRow).covers 0x4FFFF#20 = true := by decide

theorem witness_StepRunsTheNextOperation :
    (start false [0x12300#20, 0x00000#20]).program = 0x12300#20 :: [0x00000#20] ∧
    (Instr.decNib 0x23#8 0x00#8).wellFormed = true ∧
    (start false [0x12300#20]).program = encode (.decNib 0x23#8 0x00#8) :: [] ∧
    (start false []).program = [] := by decide

theorem witness_OperationsChangeOnlyPinsAndResults : exec (.decByte 0x2A#8 0x55#8) (start false [0x00000#20]) =
    .next ⟨⟨false⟩, ⟨0x3#4, 0x2A#8, 0x55#8⟩, [0x00000#20], [⟨0x2D#8, 0x00#8, none⟩]⟩ := rfl

theorem witness_ReservedOpsGiveZeros : 5 ≤ (0x5#4).toNat ∧ 5 ≤ (0x8#4).toNat ∧ 5 ≤ (0xF#4).toNat := by decide

theorem witness_IgnoredOperandBitsNeverMatter :
    let i := Instr.decByteSingle 0x69#8 0x55#8
    let j := Instr.decByteSingle 0xE9#8 0x00#8
    i ≠ j ∧ i.wellFormed = true ∧ j.wellFormed = true ∧ i.op = j.op ∧ i.a &&& readsA i.op = j.a &&& readsA i.op ∧
    i.b &&& readsB i.op = j.b &&& readsB i.op := by decide

theorem witness_MultiBitErrorsAreSilent : (0x03#8).getLsbD 7 = false ∧ weight 0x03#8 = 2 ∧ 2 ≤ weight 0x03#8 ∧
    (0x0F#8).getLsbD 7 = false ∧ 2 ≤ weight 0x0F#8 ∧ 0x0F#8 = enc7 0x7#4 ∧
    (start false []).build.statusPort = false := by decide

theorem witness_DecNibAnswersTheNearestCodeword : weight ((enc7 0xB#4 ^^^ 0xA3#8) &&& 0x7F#8) ≤ 1 := by decide

theorem witness_ByteSurvivesOneErrorPerCodeword :
    weight (0x88#8 &&& 0x7F#8) ≤ 1 ∧ weight (0x80#8 &&& 0x7F#8) ≤ 1 ∧ weight (0x88#8 &&& 0x7F#8) = 1 := by decide

theorem witness_ResultDependsOnTheWordAlone :
    let s := start true [0x13B00#20]
    let t : State := ⟨⟨true⟩, ⟨0x2#4, 0xB1#8, 0x00#8⟩, [0x13B00#20, 0x00000#20], [⟨0x33#8, 0x69#8, some 0x0#4⟩]⟩
    s.build = t.build ∧ s.program = 0x13B00#20 :: [] ∧ t.program = 0x13B00#20 :: [0x00000#20] := by decide

theorem witness_RunEndsAfterItsLastWord : 1 < (start true [0x22D00#20, 0x32A55#20]).program.length := by decide

theorem witness_RepeatingOrDroppingChangesNoOtherResult : (start true []).program = [] := rfl

theorem witness_NoRunChangesTheBuild : Sys2Proof.core.run 1 (start true [0x00B00#20]) =
    .next (⟨⟨true⟩, ⟨0x0#4, 0x0B#8, 0x00#8⟩, [], [⟨0x33#8, 0x00#8, some 0x0#4⟩]⟩ : State) := rfl

theorem witness_InstancesNeverInteract :
    ([start true [0x00B00#20], start false [0x12300#20]] : System)[1]? = some (start false [0x12300#20]) := rfl

theorem witness_StepIsADutifulSampleAtThePins :
    (start true [0x12300#20]).program = 0x12300#20 :: [] ∧
    (⟨⟨true⟩, ⟨0x0#4, 0x00#8, 0x00#8⟩, false, 0⟩ : Combinational).build = (start true [0x12300#20]).build := ⟨rfl, rfl⟩

/-- A pipe with results in flight, of latency 1 and of latency 0, and a pipe not yet filled. -/
theorem witness_PipelineDelaysByItsLatency :
    (⟨⟨true⟩, 1, [⟨0x33#8, 0x00#8, some 0x0#4⟩, ⟨0x0B#8, 0x00#8, some 0x1#4⟩], 7⟩ : Pipe).wellFormed = true ∧
    ([⟨0x0#4, 0x00#8, 0x00#8⟩] : List Pins).length =
      (⟨⟨true⟩, 1, [⟨0x33#8, 0x00#8, some 0x0#4⟩, ⟨0x0B#8, 0x00#8, some 0x1#4⟩], 7⟩ : Pipe).latency ∧
    (⟨⟨false⟩, 0, [⟨0x33#8, 0x00#8, none⟩], 1⟩ : Pipe).wellFormed = true ∧
    ([⟨0x0#4, 0x00#8, 0x00#8⟩, ⟨0x1#4, 0x23#8, 0x00#8⟩] : List Pins).length ≤ 2 := by decide

theorem witness_PipelineRefinesTheUntimedRun : ([⟨0x0#4, 0x00#8, 0x00#8⟩, ⟨0x0#4, 0x00#8, 0x00#8⟩] : List Pins).length = 2 :=
  rfl

theorem witness_AssemblerLinesGiveTheirWords :
    (255 < 256 ∧ 0 < 256) ∧ 256 ≤ 256 ∧ Line.decByte 0 256 ∈ [Line.decByte 256 0, Line.decByte 0 256] ∧
    2 ^ 20 ≤ 2 ^ 20 := by decide

end Sys2Proof.Tests
end

section
/-! What every step keeps, every run keeps; the build is such a thing (00_scope.md R5, 10_state.md R18). -/

namespace Sys2Proof.Machine

/-- A run of `k + 1` steps that answers next is a step that answers next and a run of `k` steps from there. -/
theorem exists_step_of_run_succ (M : Host.Core) {k : Nat} {s t : M.State} (h : M.run (k + 1) s = .next t) :
    ∃ u, M.step s = .next u ∧ M.run k u = .next t := by
  cases hs : M.step s with
  | next u => exact ⟨u, rfl, by rwa [run_succ_of_next M k s u hs] at h⟩
  | fault r => simp [Host.Core.run, hs] at h
  | refused r => simp [Host.Core.run, hs] at h

/-- The induction over a run, once: a property kept by every step is kept by every run. -/
theorem run_keeps (M : Host.Core) (P : M.State → Prop) (keep : ∀ s t, P s → M.step s = .next t → P t) (k : Nat)
    {s t : M.State} (hs : P s) (h : M.run k s = .next t) : P t := by
  induction k generalizing s with
  | zero => cases h; exact hs
  | succ k ih =>
    obtain ⟨u, hstep, hrun⟩ := exists_step_of_run_succ M h
    exact ih (keep s u hs hstep) hrun

/-- The build stands on both sides of a step: an idle step changes nothing and a sampled one no build. -/
theorem step_build {s t : State} (h : step s = .next t) : t.build = s.build := by
  obtain ⟨-, rfl⟩ | ⟨w, rest, -, rfl⟩ := step_next_cases s t h
  · rfl
  · exact State.sampled_build _ _ _

/-- Settles O35: each step keeps the build, hence each run does. -/
theorem noRunChangesTheBuild : Obligations.NoRunChangesTheBuild := fun k s _ hrun =>
  run_keeps Sys2Proof.core (fun u : State => u.build = s.build) (fun _ _ hu hstep => (step_build hstep).trans hu)
    k rfl hrun

/-- Settles O1: the three fields as `State.reset` and `Build.default` write them. -/
theorem resetStartsAnEmptyRun : Obligations.ResetStartsAnEmptyRun := ⟨rfl, rfl, rfl⟩

end Sys2Proof.Machine
end

section
/-! The binary rendering of a byte, character by character (00_scope.md R6). -/

namespace Sys2Proof.Machine

/-- The one-bit field at `i` is 1 exactly when bit `i` is set. -/
theorem bit_eq_one_iff {n : Nat} (v : BitVec n) (i : Nat) : bit v i = 1#1 ↔ v.getLsbD i = true := by
  rw [bit, BitVec.getLsbD_eq_extractLsb', beq_iff_eq]

/-- The rendering as a list: one character for each bit, from bit 7 down. -/
theorem formatBinary8_toList (v : Byte) : (formatBinary8 v).toList =
    [7, 6, 5, 4, 3, 2, 1, 0].map fun i => if v.getLsbD i then '1' else '0' := by
  simp only [formatBinary8, String.toList_ofList, bit_eq_one_iff]

/-- Position `i` of the rendering's bit order is bit `7 - i`. -/
theorem bitOrder_getElem? : ∀ i : Fin 8, [7, 6, 5, 4, 3, 2, 1, 0][i.val]? = some (7 - i.val) := by decide

/-- Settles O42: the rendering maps the eight bit positions, and position `i` is bit `7 - i`. -/
theorem formatBinary8MostSignificantFirst : Obligations.FormatBinary8MostSignificantFirst := by
  intro v
  rw [formatBinary8_toList]
  refine ⟨rfl, fun i => ?_⟩
  rw [List.getElem?_map, bitOrder_getElem?, Option.map_some]

end Sys2Proof.Machine
end

section
/-! What an operation and a step leave unchanged, and what a result can depend on (10_state.md R15 to R23). -/

namespace Sys2Proof.Machine

/-- The outputs an operation drives are fixed before the state is: one `o` serves every state and so every build. -/
theorem exec_outputs_uniform (i : Instr) : ∃ o : Outputs, ∀ s : State,
    exec i s = .next (s.sampled ⟨i.op, i.a, i.b⟩ (o.seen s.build)) := by
  cases i <;> exact ⟨_, fun s => transact_eq _ _ s⟩

/-- A build shows `st` exactly when it has the port (10_state.md R14). -/
@[simp] theorem Outputs.seen_st_isSome (o : Outputs) (bd : Build) : (o.seen bd).st.isSome = bd.statusPort := by
  cases h : bd.statusPort <;> simp [h]

/-- Settles O12: an operation that answers next has sampled one transaction of its own fields, and sampling frames the
rest of the state. -/
theorem operationsChangeOnlyPinsAndResults : Obligations.OperationsChangeOnlyPinsAndResults := by
  intro i s t h
  obtain ⟨o, ho⟩ := exec_sampled i s
  obtain rfl := Host.Outcome.next.inj (ho.symm.trans h)
  exact ⟨State.sampled_build _ _ _, State.sampled_program _ _ _, State.sampled_pins _ _ _,
    o.seen s.build, State.sampled_results _ _ _⟩

/-- Settles O21: both builds see the same driven outputs, and only `st` is read through the build. -/
theorem statusPortNeverChangesValues : Obligations.StatusPortNeverChangesValues := by
  intro i s bd
  obtain ⟨o, ho⟩ := exec_outputs_uniform i
  refine ⟨_, _, o.seen s.build, o.seen bd, ho s, State.sampled_results _ _ _,
    ho { s with build := bd }, State.sampled_results _ _ _, ?_⟩
  simp only [Outputs.seen_y0, Outputs.seen_y1, Outputs.seen_st_isSome, and_self]

/-- Settles O31: the step lemma gives each state's successor from its own build and the word; the builds agree. -/
theorem resultDependsOnTheWordAlone : Obligations.ResultDependsOnTheWordAlone := by
  intro s t w p q hbuild hs ht
  have hresult : coreFn t.build (pinsOf w) = coreFn s.build (pinsOf w) := by rw [hbuild]
  exact ⟨step_present_sampled s w p hs, hresult ▸ step_present_sampled t w q ht⟩

end Sys2Proof.Machine
end

section
/-! What a run of the host's words samples, and repeating or leaving out a transaction (20_memory.md R30). -/

namespace Sys2Proof.Machine

/-- As many steps as `ws` has words present exactly `ws` and sample `core` of each word, whatever the host has still to
present after them (70_reset_and_hazards.md R94). -/
theorem run_present_prefix (ws : List Command) {s : State} {rest : List Command} (h : s.program = ws ++ rest) :
    ∃ t : State, Sys2Proof.core.run ws.length s = .next t ∧ t.program = rest ∧
      t.results = s.results ++ ws.map (fun w => coreFn s.build (pinsOf w)) := by
  induction ws generalizing s with
  | nil => exact ⟨s, rfl, h, (List.append_nil _).symm⟩
  | cons w ws ih =>
    have hstep := step_present_sampled s w (ws ++ rest) h
    obtain ⟨t, hrun, hprogram, hresults⟩ := ih (State.sampled_program { s with program := ws ++ rest } _ _)
    refine ⟨t, (run_succ _ _ _ hstep).trans hrun, hprogram, ?_⟩
    rw [hresults, State.sampled_results, List.append_assoc]
    rfl

/-- A host with nothing left to present, given `k` words, samples `core` of each of them in order in `k` steps. -/
theorem run_load {s : State} (h : s.program = []) (ws : List Command) {k : Nat} (hk : ws.length = k) :
    ∃ t : State, Sys2Proof.core.run k (s.load ws) = .next t ∧
      t.results = s.results ++ ws.map (fun w => coreFn s.build (pinsOf w)) := by
  have hload : (s.load ws).program = ws ++ [] := by rw [State.load_program, h, List.nil_append, List.append_nil]
  obtain ⟨t, hrun, -, hresults⟩ := run_present_prefix ws hload
  exact ⟨t, hk ▸ hrun, hresults⟩

/-- Settles O34: each of the three runs samples the map of `core` over its own words, and a map splits over `++`. -/
theorem repeatingOrDroppingChangesNoOtherResult : Obligations.RepeatingOrDroppingChangesNoOtherResult := by
  intro s us vs w h
  refine ⟨us.map fun u => coreFn s.build (pinsOf u), coreFn s.build (pinsOf w),
    vs.map fun v => coreFn s.build (pinsOf v), ?once, ?twice, ?never, List.length_map _, List.length_map _⟩
  case once =>
    have hlength : (us ++ [w] ++ vs).length = us.length + 1 + vs.length := by
      simp only [List.length_append, List.length_cons, List.length_nil]
    simpa using run_load h (us ++ [w] ++ vs) hlength
  case twice =>
    have hlength : (us ++ [w, w] ++ vs).length = us.length + 2 + vs.length := by
      simp only [List.length_append, List.length_cons, List.length_nil]
    simpa using run_load h (us ++ [w, w] ++ vs) hlength
  case never => simpa using run_load h (us ++ vs) List.length_append

end Sys2Proof.Machine
end

section
/-! Instances side by side: a system's step is one instance's own step, and nobody else's (20_memory.md R32,
60_exceptions.md R82). -/

namespace Sys2Proof.Machine

/-- Every step answers next: it is idle or it samples (60_exceptions.md R70). -/
theorem exists_step_next (s : State) : ∃ t, step s = .next t := by
  cases hp : s.program with
  | nil => exact ⟨_, step_idle s hp⟩
  | cons w rest => exact ⟨_, step_present_sampled s w rest hp⟩

/-- Where there is no instance `k`, its step changes nothing (log entry 14). -/
theorem System.stepAt_absent {m : System} {k : Nat} (h : m[k]? = none) : m.stepAt k = .next m := by
  simp only [System.stepAt, h]

/-- A step of instance `k` puts that instance's own next state in its place. -/
theorem System.stepAt_present {m : System} {k : Nat} {s t : State} (h : m[k]? = some s) (hstep : step s = .next t) :
    m.stepAt k = .next (m.set k t) := by
  simp only [System.stepAt, h, hstep]

/-- What one step of a system does: instance `k`, if there is one, makes its own step, and every other instance stays
where it is. -/
theorem System.exists_stepAt_next (m : System) (k : Nat) : ∃ n : System, m.stepAt k = .next n ∧ n.length = m.length ∧
    (∀ s, m[k]? = some s → ∃ t, step s = .next t ∧ n[k]? = some t) ∧ ∀ j, k ≠ j → n[j]? = m[j]? := by
  cases hk : m[k]? with
  | none => exact ⟨m, System.stepAt_absent hk, rfl, nofun, fun _ _ => rfl⟩
  | some s =>
    obtain ⟨t, hstep⟩ := exists_step_next s
    refine ⟨m.set k t, System.stepAt_present hk hstep, List.length_set, ?_, fun j hj => List.getElem?_set_ne hj⟩
    rintro _ ⟨rfl⟩
    exact ⟨t, hstep, List.getElem?_set_self (List.getElem?_eq_some_iff.mp hk).1⟩

/-- An interleaving's first step. -/
theorem System.run_cons_of_stepAt {m n : System} {k : Nat} (ks : List Nat) (h : m.stepAt k = .next n) :
    m.run (k :: ks) = n.run ks := by
  simp only [System.run, h]

/-- Settles O36, by induction on the interleaving: its first step is a step of instance `k` alone, which `k`'s count of
steps counts and no other instance's does. -/
theorem instancesNeverInteract : Obligations.InstancesNeverInteract := by
  intro m order
  induction order generalizing m with
  | nil => exact ⟨m, rfl, rfl, fun _ s hs => ⟨s, hs, rfl⟩⟩
  | cons k ks ih =>
    obtain ⟨m', hstepAt, hlength, hself, hother⟩ := m.exists_stepAt_next k
    obtain ⟨n, hrun, hlength', halone⟩ := ih m'
    refine ⟨n, (System.run_cons_of_stepAt ks hstepAt).trans hrun, hlength'.trans hlength, fun j s hs => ?_⟩
    by_cases hj : k = j
    · subst hj
      obtain ⟨u, hstep, hu⟩ := hself s hs
      obtain ⟨t, ht, hrunAlone⟩ := halone k u hu
      rw [List.count_cons_self]
      exact ⟨t, ht, (run_succ _ s u hstep).trans hrunAlone⟩
    · rw [List.count_cons_of_ne hj]
      exact halone j s ((hother j hj).trans hs)

end Sys2Proof.Machine
end

section
/-! The command word: its three fields, and that packing and decoding undo each other (30_encoding.md R37, R38, R42). -/

namespace Sys2Proof

open Machine

/-- The word as a number, one field after another (30_encoding.md R37). -/
theorem pack_toNat (op : OpField) (a b : Byte) :
    (pack op a b).toNat = op.toNat * 0x10000 + a.toNat * 0x100 + b.toNat := by
  have ha := a.isLt
  have hb := b.isLt
  rw [pack, BitVec.toNat_append, BitVec.toNat_append, ← Nat.shiftLeft_add_eq_or_of_lt hb,
    ← Nat.shiftLeft_add_eq_or_of_lt ha, Nat.shiftLeft_eq, Nat.shiftLeft_eq]
  omega

/-- A command word is its own three fields, packed again. -/
@[simp] theorem pack_fields (w : Command) : pack (opField w) (aField w) (bField w) = w := by
  apply BitVec.eq_of_toNat_eq
  have hw := w.isLt
  simp only [pack_toNat, opField, aField, bField, BitVec.extractLsb'_toNat, Nat.shiftRight_eq_div_pow]
  omega

/-- Decoding an operation's word looks at its fields alone. -/
theorem decode_encode_eq_decodeFields (i : Instr) : decode (encode i) = decodeFields i.op i.a i.b :=
  decode_pack i.op i.a i.b

/-- The select 0x6 or 0x7 is no earlier row's. -/
theorem decodeFields_op67 {op : OpField} (h : op &&& 0xE#4 = 0x6#4) (a b : Byte) :
    decodeFields op a b = .reserved6To7 op a b := by
  obtain ⟨h0, h1, h2, h3, h4⟩ := op67_reserved op h
  have h5 : op ≠ 0x5#4 := by rintro rfl; exact absurd h (by decide)
  simp only [decodeFields, if_neg h0, if_neg h1, if_neg h2, if_neg h3, if_neg h4, if_neg h5, if_pos h]

/-- The selects 0x8 to 0xF are no earlier row's. -/
theorem decodeFields_op8F {op : OpField} (h : op &&& 0x8#4 = 0x8#4) (a b : Byte) :
    decodeFields op a b = .reserved8ToF op a b := by
  obtain ⟨h0, h1, h2, h3, h4⟩ := op8F_reserved op h
  have h5 : op ≠ 0x5#4 := by rintro rfl; exact absurd h (by decide)
  have disjointRows : ∀ op : OpField, op &&& 0x8#4 = 0x8#4 → op &&& 0xE#4 ≠ 0x6#4 := by decide
  simp only [decodeFields, if_neg h0, if_neg h1, if_neg h2, if_neg h3, if_neg h4, if_neg h5,
    if_neg (disjointRows op h)]

/-- The check of the row RESERVED_6_7. -/
theorem wellFormed_reserved6To7_iff (op : OpField) (a b : Byte) :
    (Instr.reserved6To7 op a b).wellFormed = true ↔ op &&& 0xE#4 = 0x6#4 := beq_iff_eq

/-- The check of the row RESERVED_8_F. -/
theorem wellFormed_reserved8ToF_iff (op : OpField) (a b : Byte) :
    (Instr.reserved8ToF op a b).wellFormed = true ↔ op &&& 0x8#4 = 0x8#4 := beq_iff_eq

/-- Settles O5, one case for each constructor: where the select is the constructor's own, the chain of `decodeFields`
computes; where it is a field, well-formedness puts it in the constructor's row. -/
theorem decodeOfEncodeIsIdentity : Obligations.DecodeOfEncodeIsIdentity := by
  intro i hi
  rw [decode_encode_eq_decodeFields]
  cases i with
  | reserved6To7 op a b => exact decodeFields_op67 ((wellFormed_reserved6To7_iff op a b).mp hi) a b
  | reserved8ToF op a b => exact decodeFields_op8F ((wellFormed_reserved8ToF_iff op a b).mp hi) a b
  | _ => rfl

/-- Settles O6: decoding keeps the three fields, and the three fields are the whole word. -/
theorem encodeOfDecodeIsIdentity : Obligations.EncodeOfDecodeIsIdentity := by
  intro w
  obtain ⟨hop, ha, hb⟩ := decodeFields_fields (opField w) (aField w) (bField w)
  refine ⟨decodeFields_wellFormed _ _ _, ?_⟩
  rw [encode, decode, hop, ha, hb, pack_fields]

/-- Settles O4: the word packs the operation's fields, and the transaction sampled drives them. -/
theorem commandWordPacksOpAB : Obligations.CommandWordPacksOpAB := by
  intro i s
  obtain ⟨o, hexec⟩ := exec_sampled i s
  exact ⟨opField_pack i.op i.a i.b, aField_pack i.op i.a i.b, bField_pack i.op i.a i.b, pack_toNat i.op i.a i.b,
    _, hexec, State.sampled_pins _ _ _⟩

/-- The three reserved rows, by the number of the select. -/
theorem op_reserved_rows : ∀ op : OpField, 5 ≤ op.toNat →
    op = 0x5#4 ∨ (op.toNat ≠ 5 ∧ op.toNat < 8 ∧ op &&& 0xE#4 = 0x6#4) ∨
      (op.toNat ≠ 5 ∧ ¬op.toNat < 8 ∧ op &&& 0x8#4 = 0x8#4) := by decide

/-- Settles O7: `decodeFields` computes on the five selects of operations, and a reserved select is in one of the
three rows. -/
theorem opFieldSelectsTheOperation : Obligations.OpFieldSelectsTheOperation := by
  intro op a b
  refine ⟨decode_pack 0x0#4 a b, decode_pack 0x1#4 a b, decode_pack 0x2#4 a b, decode_pack 0x3#4 a b,
    decode_pack 0x4#4 a b, fun h => (decode_pack op a b).trans ?_⟩
  obtain rfl | ⟨h5, h8, hrow⟩ | ⟨h5, h8, hrow⟩ := op_reserved_rows op h
  · rfl
  · rw [if_neg h5, if_pos h8, decodeFields_op67 hrow]
  · rw [if_neg h5, if_neg h8, decodeFields_op8F hrow]

/-- The operands do not select the row. -/
theorem decodeFields_mnemonic (op : OpField) (a b : Byte) :
    (decodeFields op a b).mnemonic = (decodeFields op 0x00#8 0x00#8).mnemonic := by
  unfold decodeFields
  repeat' split
  all_goals rfl

/-- A mask within the operation field leaves nothing of the operands, so whether its row covers a word depends on the
select alone. -/
theorem OpcodeRow.covers_pack_eq {r : OpcodeRow} (h : r.mask &&& 0x0FFFF#20 = 0x00000#20) (op : OpField) (a b : Byte) :
    r.covers (pack op a b) = r.covers (pack op 0x00#8 0x00#8) := by
  have field : ∀ x y : Byte, pack op x y &&& 0xF0000#20 = pack op 0x00#8 0x00#8 := fun x y =>
    (pack_and_opMask op 0xF#4 x y).trans (congrArg (fun o : OpField => pack o 0x00#8 0x00#8) BitVec.and_allOnes)
  have inField : r.mask = 0xF0000#20 &&& r.mask := by
    have halves := BitVec.and_or_distrib_left (x := r.mask) (y := 0xF0000#20) (z := 0x0FFFF#20)
    rw [h, BitVec.or_zero, BitVec.and_comm r.mask 0xF0000#20] at halves
    exact (BitVec.and_allOnes (x := r.mask)).symm.trans halves
  unfold OpcodeRow.covers
  rw [inField, ← BitVec.and_assoc, ← BitVec.and_assoc, field, field]

/-- Every mask of the table stands in the operation field (30_encoding.md R42). -/
theorem opcodeTable_mask : ∀ r ∈ opcodeTable, r.mask &&& 0x0FFFF#20 = 0x00000#20 := by decide

/-- The table's rows divide the sixteen selects among them (30_encoding.md R42). -/
theorem exactly_one_row_per_select : ∀ op : OpField, ∃ r ∈ opcodeTable, r.covers (pack op 0x00#8 0x00#8) = true ∧
    r.mnemonic = (decodeFields op 0x00#8 0x00#8).mnemonic ∧
    (∀ q ∈ opcodeTable, q.covers (pack op 0x00#8 0x00#8) = true → q = r) ∧
    (op.toNat < 5 ↔ r.mnemonic ∈ ["ENC_NIB", "DEC_NIB", "ENC_BYTE", "DEC_BYTE", "DEC_BYTE_SINGLE"]) ∧
    (5 ≤ op.toNat ↔ r.mnemonic ∈ ["RESERVED_5", "RESERVED_6_7", "RESERVED_8_F"]) := by decide

/-- Settles O8: covering and the mnemonic depend on the select alone, and the sixteen selects are checked. -/
theorem everyWordMatchesExactlyOneRow : Obligations.EveryWordMatchesExactlyOneRow := by
  refine ⟨fun w => ?_, opcodeTable_mask, by decide⟩
  obtain ⟨r, hr, hcovers, hmnemonic, honly, hops, hreserved⟩ := exactly_one_row_per_select (opField w)
  have covers_eq : ∀ q ∈ opcodeTable, q.covers w = q.covers (pack (opField w) 0x00#8 0x00#8) := fun q hq => by
    rw [← OpcodeRow.covers_pack_eq (opcodeTable_mask q hq) (opField w) (aField w) (bField w), pack_fields]
  refine ⟨r, hr, (covers_eq r hr).trans hcovers, hmnemonic.trans (decodeFields_mnemonic _ _ _).symm, ?_, hops, hreserved⟩
  exact fun q hq h => honly q hq ((covers_eq q hq).symm.trans h)

/-- Settles O9: each of the eight words is computed. -/
theorem listedWordsDecode : Obligations.ListedWordsDecode := by
  unfold Obligations.ListedWordsDecode
  decide

end Sys2Proof
end

section
/-! What a sampled result can be: the classes and the container bit the invariant of a run speaks of (30_encoding.md R41,
40_nibble_codec.md R53, R59). -/

namespace Sys2Proof.Machine

/-- Two lanes' classes make a legal status exactly when neither is 11. -/
theorem classesLegal_append : ∀ h l : BitVec 2, Status.classesLegal (h ++ l) = true ↔ h ≠ 0b11#2 ∧ l ≠ 0b11#2 := by
  decide

/-- Driven outputs that every build shows as a legal result. -/
def Outputs.Legal (o : Outputs) : Prop := Status.classesLegal o.st = true ∧ o.y1.getLsbD 7 = false

/-- Legal outputs are seen as a legal result, with the port and without it. -/
theorem Outputs.Legal.seen {o : Outputs} (h : o.Legal) (bd : Build) : (o.seen bd).legal bd = true := by
  obtain ⟨hst, hy1⟩ := h
  cases hport : bd.statusPort <;> simp [Result.legal, hport, hst, hy1, -BitVec.getLsbD_eq_getElem]

theorem classesLegal_zero : Status.classesLegal 0x0#4 = true := by decide

theorem zero_bit7 : (0x00#8).getLsbD 7 = false := BitVec.getLsbD_zero

theorem encNibOutputs_legal (a : Byte) : (encNibOutputs a).Legal := ⟨classesLegal_zero, zero_bit7⟩

theorem decNibOutputs_legal (a : Byte) : (decNibOutputs a).Legal :=
  ⟨(classesLegal_append _ _).mpr ⟨by decide, cls_ne_three a⟩, zero_bit7⟩

theorem encByteOutputs_legal (a : Byte) : (encByteOutputs a).Legal := ⟨classesLegal_zero, enc7_bit7 (lowNibble a)⟩

theorem decByteOutputs_legal (a b : Byte) : (decByteOutputs a b).Legal :=
  ⟨(classesLegal_append _ _).mpr ⟨cls_ne_three a, cls_ne_three b⟩, zero_bit7⟩

theorem decByteSingleOutputs_legal (a : Byte) : (decByteSingleOutputs a).Legal :=
  decByteSingleOutputs_eq_decNibOutputs a ▸ decNibOutputs_legal a

theorem reservedOutputs_legal : reservedOutputs.Legal := ⟨classesLegal_zero, zero_bit7⟩

/-- Whatever the pins, the block drives legal outputs: one case for each branch of `coreOutputs`. -/
theorem coreOutputs_legal (p : Pins) : (coreOutputs p).Legal := by
  unfold coreOutputs
  split
  · exact encNibOutputs_legal p.a
  split
  · exact decNibOutputs_legal p.a
  split
  · exact encByteOutputs_legal p.a
  split
  · exact decByteOutputs_legal p.a p.b
  split
  · exact decByteSingleOutputs_legal p.a
  · exact reservedOutputs_legal

/-- Sampling what the driven pins show keeps the invariant of a run. -/
theorem State.Inv.sampled {s : State} (h : s.Inv) (p : Pins) : (s.sampled p (coreFn s.build p)).Inv := by
  obtain ⟨hlegal, -⟩ := h
  constructor
  · intro r hr
    obtain hr | hr := List.mem_append.mp hr
    · exact hlegal r hr
    · rw [List.mem_singleton.mp hr]
      exact (coreOutputs_legal p).seen s.build
  · intro r hr
    rw [State.sampled_results, List.getLast?_concat] at hr
    exact (Option.some.inj hr).symm

/-- Settles O3: an idle step changes nothing, and any other step samples what its own pins show; taking the word off
the host's list does not touch the invariant. -/
theorem stepKeepsTheRunInvariant : Obligations.StepKeepsTheRunInvariant := by
  intro s t hs hstep
  obtain ⟨-, rfl⟩ | ⟨w, rest, -, rfl⟩ := step_next_cases s t hstep
  · exact hs
  · have taken : ({ s with program := rest } : State).Inv := hs
    exact taken.sampled (pinsOf w)

end Sys2Proof.Machine
end

section
/-! The operand bits an operation reads (30_encoding.md R39, R40). -/

namespace Sys2Proof.Machine

open Sys2Proof.Spec

theorem lowNibble_mask : ∀ a : Byte, lowNibble (a &&& 0x0F#8) = lowNibble a := by decide +kernel

theorem encNibOutputs_mask (a : Byte) : encNibOutputs (a &&& 0x0F#8) = encNibOutputs a := by
  rw [encNibOutputs, lowNibble_mask, encNibOutputs]

theorem decNibOutputs_mask (a : Byte) : decNibOutputs (a &&& 0x7F#8) = decNibOutputs a := by
  rw [decNibOutputs, dec4_mask, cls_mask, decNibOutputs]

theorem decByteOutputs_mask (a b : Byte) : decByteOutputs (a &&& 0x7F#8) (b &&& 0x7F#8) = decByteOutputs a b := by
  simp only [decByteOutputs, dec4_mask, cls_mask]

theorem decByteSingleOutputs_mask (a : Byte) : decByteSingleOutputs (a &&& 0x7F#8) = decByteSingleOutputs a := by
  rw [decByteSingleOutputs, dec4_mask, cls_mask, decByteSingleOutputs]

/-- A select is one of the five operations' or is none of them. -/
theorem op_operation_or_reserved (op : OpField) : op = 0x0#4 ∨ op = 0x1#4 ∨ op = 0x2#4 ∨ op = 0x3#4 ∨ op = 0x4#4 ∨
    (op ≠ 0x0#4 ∧ op ≠ 0x1#4 ∧ op ≠ 0x2#4 ∧ op ≠ 0x3#4 ∧ op ≠ 0x4#4) := by
  revert op; decide

/-- The outputs are those of the operand bits in the table's "reads" column, every other bit 0. -/
theorem coreOutputs_reads (op : OpField) (a b : Byte) :
    coreOutputs ⟨op, a &&& readsA op, b &&& readsB op⟩ = coreOutputs ⟨op, a, b⟩ := by
  obtain rfl | rfl | rfl | rfl | rfl | reserved := op_operation_or_reserved op
  · exact encNibOutputs_mask a
  · exact decNibOutputs_mask a
  · exact congrArg encByteOutputs (BitVec.and_allOnes (x := a))
  · exact decByteOutputs_mask a b
  · exact decByteSingleOutputs_mask a
  · rw [coreOutputs_reserved _ reserved, coreOutputs_reserved _ reserved]

/-- Settles O19: both results are `core` of the bits read, and those agree. -/
theorem ignoredOperandBitsNeverMatter : Obligations.IgnoredOperandBitsNeverMatter := by
  intro i j s hi hj hop ha hb
  have sameResult : coreFn s.build ⟨j.op, j.a, j.b⟩ = coreFn s.build ⟨i.op, i.a, i.b⟩ := by
    rw [coreFn, coreFn, ← coreOutputs_reads i.op i.a, ← coreOutputs_reads j.op j.a, ← hop, ha, hb]
  exact ⟨_, _, _, exec_of_wellFormed i hi s, sameResult ▸ exec_of_wellFormed j hj s,
    State.sampled_results _ _ _, State.sampled_results _ _ _⟩

end Sys2Proof.Machine
end

section
/-! The lines of a listing and the words they stand for (30_encoding.md R45). -/

namespace Sys2Proof.Machine

theorem operandByte_of_lt {x : Nat} (h : x < 256) : operandByte x = .ok (BitVec.ofNat 8 x) := if_pos h

theorem operandByte_of_le {x : Nat} (h : 256 ≤ x) : operandByte x = .error .operandTooLarge :=
  if_neg (Nat.not_lt.mpr h)

/-- An operand that is refused is refused for its size. -/
theorem operandByte_cases (x : Nat) :
    operandByte x = .ok (BitVec.ofNat 8 x) ∨ operandByte x = .error .operandTooLarge :=
  (Nat.lt_or_ge x 256).imp operandByte_of_lt operandByte_of_le

theorem assembleOne_of_lt (f : Byte → Byte → Instr) {x : Nat} (h : x < 256) :
    assembleOne f x = .ok (encode (f (BitVec.ofNat 8 x) 0x00#8)) := by
  rw [assembleOne, operandByte_of_lt h]

theorem assembleOne_of_le (f : Byte → Byte → Instr) {x : Nat} (h : 256 ≤ x) :
    assembleOne f x = .error .operandTooLarge := by
  rw [assembleOne, operandByte_of_le h]

theorem assemble_decByte_of_lt {h l : Nat} (hh : h < 256) (hl : l < 256) :
    (Line.decByte h l).assemble = .ok (encode (.decByte (BitVec.ofNat 8 h) (BitVec.ofNat 8 l))) := by
  rw [Line.assemble, operandByte_of_lt hh, operandByte_of_lt hl]

/-- DEC_BYTE is refused for either operand, also where the other is in range. -/
theorem assemble_decByte_of_le {h l : Nat} (hle : 256 ≤ h ∨ 256 ≤ l) :
    (Line.decByte h l).assemble = .error .operandTooLarge := by
  obtain hh | hl := hle
  · rw [Line.assemble, operandByte_of_le hh]
  · rw [Line.assemble, operandByte_of_le hl]
    obtain hh | hh := operandByte_cases h <;> rw [hh]

/-- The assembler reads a text up to its first `;`. -/
theorem assembleText_congr {t u : String} (h : t.toList.takeWhile (· != ';') = u.toList.takeWhile (· != ';')) :
    assembleText t = assembleText u := by
  simp only [assembleText, parseLine, h]

/-- What stands before the first `;` is not changed by what follows a `;`. -/
theorem takeWhile_comment (text comment : List Char) :
    (text ++ ';' :: comment).takeWhile (· != ';') = text.takeWhile (· != ';') := by
  induction text with
  | nil => rfl
  | cons c cs ih => simp only [List.cons_append, List.takeWhile_cons, ih]

/-- Settles O41, clause by clause: the operands in range, DEC_BYTE, the operands too large in each of the six lines,
the raw words of both kinds, and the comment. -/
theorem assemblerLinesGiveTheirWords : Obligations.AssemblerLinesGiveTheirWords := by
  refine ⟨fun x hx => ?operand, fun h l hh hl => assemble_decByte_of_lt hh hl, fun x y hx => ?tooLarge,
    fun w => ?word, fun w hw => if_neg (Nat.not_lt.mpr hw), fun text comment => ?comment⟩
  case operand =>
    exact ⟨assembleOne_of_lt .encNib hx, assembleOne_of_lt .decNib hx, assembleOne_of_lt .encByte hx,
      assembleOne_of_lt .decByteSingle hx⟩
  case tooLarge =>
    simp only [List.forall_mem_cons, List.not_mem_nil, false_imp_iff, implies_true, and_true]
    exact ⟨assembleOne_of_le _ hx, assembleOne_of_le _ hx, assembleOne_of_le _ hx, assembleOne_of_le _ hx,
      assemble_decByte_of_le (.inl hx), assemble_decByte_of_le (.inr hx)⟩
  case word =>
    rw [Line.assemble, if_pos w.isLt, BitVec.ofNat_toNat, BitVec.setWidth_eq]
  case comment =>
    apply assembleText_congr
    rw [String.toList_append, String.toList_append, List.append_assoc]
    exact takeWhile_comment text.toList comment.toList

end Sys2Proof.Machine
end

section
/-! The code is linear: what decoding answers splits into the nibble encoded and the bits flipped (40_nibble_codec.md R49
to R59). -/

namespace Sys2Proof.Machine

open Sys2Proof.Spec

theorem bit_xor {n : Nat} (v w : BitVec n) (i : Nat) : bit (v ^^^ w) i = bit v i ^^^ bit w i :=
  BitVec.extractLsb'_xor

theorem lowNibble_widen : ∀ n : Nibble, lowNibble (widen n) = n := by decide

theorem widen_toNat (n : Nibble) : (widen n).toNat = n.toNat := by
  simp only [widen, BitVec.toNat_append, BitVec.toNat_ofNat, Nat.zero_mod, Nat.zero_shiftLeft, Nat.zero_or]

theorem widen_inj {m n : Nibble} (h : widen m = widen n) : m = n := by
  rw [← lowNibble_widen m, h, lowNibble_widen]

/-- The three groups of `syn` are the three exclusive-ors, in the order of `S` (40_nibble_codec.md R54, R55). -/
theorem syn_number (c : Byte) : (syn c).number = syndromeOf c := by
  simp only [Syndrome.number, syn, syndromeOf, parity, BitVec.xor_zero, BitVec.xor_assoc]

/-- Each parity group is linear. -/
theorem syn_xor (c d : Byte) :
    syn (c ^^^ d) = ⟨(syn c).s1 ^^^ (syn d).s1, (syn c).s2 ^^^ (syn d).s2, (syn c).s3 ^^^ (syn d).s3⟩ := by
  simp only [syn, parity, bit_xor, BitVec.xor_zero, Syndrome.mk.injEq]
  refine ⟨?_, ?_, ?_⟩ <;> ac_rfl

/-- The encoder makes every parity group even (40_nibble_codec.md R50). -/
theorem syn_enc7 : ∀ n : Nibble, syn (enc7 n) = ⟨0#1, 0#1, 0#1⟩ := by decide

/-- Only the flipped bits reach the syndrome (40_nibble_codec.md R55). -/
theorem syn_enc7_xor (n : Nibble) (e : Byte) : syn (enc7 n ^^^ e) = syn e := by
  simp only [syn_xor, syn_enc7, BitVec.zero_xor]

theorem cls_enc7_xor (n : Nibble) (e : Byte) : cls (enc7 n ^^^ e) = cls e := by
  rw [cls, syn_enc7_xor, cls]

/-- The data bits stand where R49 says. -/
theorem dataBits_enc7 : ∀ n : Nibble, bit (enc7 n) 4 ++ bit (enc7 n) 2 ++ bit (enc7 n) 1 ++ bit (enc7 n) 0 = n := by
  decide

/-- The correction depends on the flipped bits alone, so the nibble encoded comes out exclusive-or what the table makes
of the flipped bits. -/
theorem tableNibble_enc7_xor (n : Nibble) (e : Byte) : tableNibble (enc7 n ^^^ e) = n ^^^ tableNibble e := by
  simp only [tableNibble, ← syn_number, syn_enc7_xor, bit_xor, ← BitVec.xor_append, dataBits_enc7, BitVec.xor_assoc]

/-- The four correction masks of the decoder, side by side, are the table's flip. -/
theorem flipMasks_eq_flipOf : ∀ s1 s2 s3 : Bit,
    (s1 &&& s2 &&& ~~~s3) ++ (s1 &&& ~~~s2 &&& s3) ++ (~~~s1 &&& s2 &&& s3) ++ (s1 &&& s2 &&& s3) =
      flipOf (s1 ++ s2 ++ s3) := by decide

/-- The decoder's pseudocode gives the correction table's nibble (40_nibble_codec.md R56, R57). -/
theorem dec4_eq_widen_tableNibble (c : Byte) : dec4 c = widen (tableNibble c) := by
  have pad : ∀ n : Nibble, BitVec.setWidth 8 n = widen n := by decide
  rw [tableNibble, ← syn_number, Syndrome.number, ← flipMasks_eq_flipOf, BitVec.xor_append, BitVec.xor_append,
    BitVec.xor_append]
  exact pad _

/-- The class is the table's: by how many groups are odd (40_nibble_codec.md R59). -/
theorem cls_eq_tableClass (c : Byte) : cls c = tableClass c := by
  simp only [cls, tableClass, ← syn_number]
  obtain ⟨s1, s2, s3⟩ := syn c
  revert s1 s2 s3
  decide

theorem dec4_enc7_xor (n : Nibble) (e : Byte) : dec4 (enc7 n ^^^ e) = widen (n ^^^ tableNibble e) := by
  rw [dec4_eq_widen_tableNibble, tableNibble_enc7_xor]

/-- The code is perfect: the table answers 0 exactly for the flips of at most one of the seven bits
(40_nibble_codec.md R60, R61). -/
theorem tableNibble_eq_zero_iff : ∀ e : Byte, tableNibble e = 0x0#4 ↔ weight (e &&& 0x7F#8) ≤ 1 := by decide +kernel

/-- Flips that leave the groups even are a codeword's bits. -/
theorem eq_enc7_of_syn_eq_zero : ∀ e : Byte, e.getLsbD 7 = false → (syn e).number = 0b000#3 →
    e = enc7 (tableNibble e) := by decide +kernel

theorem tableNibble_enc7 : ∀ n : Nibble, tableNibble (enc7 n) = n := by decide

/-- The encoder meets the parity contract (40_nibble_codec.md R49 to R51). -/
theorem enc7_isCodewordOf : ∀ n : Nibble, IsCodewordOf n (enc7 n) := by decide

/-- An even group gives its first bit back from the other three. -/
theorem eq_of_even_groups {p q x y z : Bool} (hp : (p ^^ x ^^ y ^^ z) = false) (hq : (q ^^ x ^^ y ^^ z) = false) :
    p = q := by
  simpa only [Bool.xor_left_inj] using hp.trans hq.symm

/-- The contract fixes every bit: bit 7 and the data bits outright, each parity bit by its even group. -/
theorem isCodewordOf_unique {n : Nibble} {c d : Byte} (hc : IsCodewordOf n c) (hd : IsCodewordOf n d) : c = d := by
  obtain ⟨c7, c4, c2, c1, c0, cp1, cp2, cp3⟩ := hc
  obtain ⟨d7, d4, d2, d1, d0, dp1, dp2, dp3⟩ := hd
  rw [c4, c2, c0] at cp1
  rw [c4, c1, c0] at cp2
  rw [c2, c1, c0] at cp3
  rw [d4, d2, d0] at dp1
  rw [d4, d1, d0] at dp2
  rw [d2, d1, d0] at dp3
  apply BitVec.eq_of_getLsbD_eq
  intro i hi
  match i, hi with
  | 0, _ => exact c0.trans d0.symm
  | 1, _ => exact c1.trans d1.symm
  | 2, _ => exact c2.trans d2.symm
  | 3, _ => exact eq_of_even_groups cp3 dp3
  | 4, _ => exact c4.trans d4.symm
  | 5, _ => exact eq_of_even_groups cp2 dp2
  | 6, _ => exact eq_of_even_groups cp1 dp1
  | 7, _ => exact c7.trans d7.symm

theorem isCodewordOf_iff (n : Nibble) (c : Byte) : IsCodewordOf n c ↔ c = enc7 n :=
  ⟨fun h => isCodewordOf_unique h (enc7_isCodewordOf n), fun h => h ▸ enc7_isCodewordOf n⟩

end Sys2Proof.Machine
end

section
/-! What ENC_NIB and DEC_NIB answer (40_nibble_codec.md R49 to R63), and a byte through two flipped codewords
(41_byte_codec.md R64 to R66). -/

namespace Sys2Proof.Machine

open Sys2Proof.Spec

theorem exec_encNib (a b : Byte) (s : State) :
    exec (.encNib a b) s = .next (s.sampled ⟨0x0#4, a, b⟩ ((encNibOutputs a).seen s.build)) := transact_eq _ _ s

theorem exec_decNib (a b : Byte) (s : State) :
    exec (.decNib a b) s = .next (s.sampled ⟨0x1#4, a, b⟩ ((decNibOutputs a).seen s.build)) := transact_eq _ _ s

theorem exec_encByte (a b : Byte) (s : State) :
    exec (.encByte a b) s = .next (s.sampled ⟨0x2#4, a, b⟩ ((encByteOutputs a).seen s.build)) := transact_eq _ _ s

theorem exec_decByte (a b : Byte) (s : State) :
    exec (.decByte a b) s = .next (s.sampled ⟨0x3#4, a, b⟩ ((decByteOutputs a b).seen s.build)) := transact_eq _ _ s

/-- What DEC_NIB samples of a codeword with the bits of `e` flipped. -/
theorem exec_decNib_enc7_xor (n : Nibble) (e b : Byte) (s : State) :
    exec (.decNib (enc7 n ^^^ e) b) s = .next (s.sampled ⟨0x1#4, enc7 n ^^^ e, b⟩
      ⟨widen (n ^^^ tableNibble e), 0x00#8, statusIf s.build (0b00#2 ++ cls e)⟩) := by
  rw [exec_decNib, decNibOutputs, dec4_enc7_xor, cls_enc7_xor]
  rfl

/-- Flips that the table answers 0 for leave the nibble, and are reported with their own class. -/
theorem exec_decNib_corrected {e : Byte} (h : tableNibble e = 0x0#4) (n : Nibble) (b : Byte) (s : State) :
    exec (.decNib (enc7 n ^^^ e) b) s = .next (s.sampled ⟨0x1#4, enc7 n ^^^ e, b⟩
      ⟨widen n, 0x00#8, statusIf s.build (0b00#2 ++ cls e)⟩) := by
  rw [exec_decNib_enc7_xor, h, BitVec.xor_zero]

/-- What DEC_NIB samples of an unflipped codeword. -/
theorem exec_decNib_enc7 (n : Nibble) (b : Byte) (s : State) :
    exec (.decNib (enc7 n) b) s =
      .next (s.sampled ⟨0x1#4, enc7 n, b⟩ ⟨widen n, 0x00#8, statusIf s.build 0x0#4⟩) := by
  have unflipped := exec_decNib_corrected (e := 0x00#8) (by decide) n b s
  rwa [BitVec.xor_zero] at unflipped

/-- What ENC_NIB samples of a byte that is a nibble. -/
theorem exec_encNib_widen (n : Nibble) (b : Byte) (s : State) :
    exec (.encNib (widen n) b) s =
      .next (s.sampled ⟨0x0#4, widen n, b⟩ ⟨enc7 n, 0x00#8, statusIf s.build 0x0#4⟩) := by
  rw [exec_encNib, encNibOutputs, lowNibble_widen]
  rfl

/-- Settles O13: one sampled transaction, and the codeword meets the parity contract. -/
theorem encNibResult : Obligations.EncNibResult := fun a b s =>
  ⟨rfl, by simp only [opcodeTable, List.mem_cons, true_or], exec_encNib a b s, enc7_isCodewordOf _⟩

/-- Settles O14: one sampled transaction, and the pseudocode gives the table's nibble and class. -/
theorem decNibResult : Obligations.DecNibResult := fun a b s =>
  ⟨rfl, by simp only [opcodeTable, List.mem_cons, true_or, or_true], exec_decNib a b s, dec4_eq_widen_tableNibble a,
    cls_eq_tableClass a⟩

/-- Toggling the parity bits one data bit at a time computes the three groups (40_nibble_codec.md R52). -/
theorem enc7Toggling_eq_enc7 : ∀ n : Nibble, enc7Toggling n = enc7 n := by decide

/-- The columns are the codewords of the four unit nibbles (40_nibble_codec.md R52). -/
theorem enc7Columns_eq_enc7 : ∀ n : Nibble, enc7Columns n = enc7 n := by decide

/-- Settles O22: ENC_NIB drives `enc7`, and both other algorithms compute it. -/
theorem encNibAgreesWithTogglingAndColumns : Obligations.EncNibAgreesWithTogglingAndColumns := fun a b s =>
  ⟨_, _, exec_encNib a b s, State.sampled_results _ _ _, rfl, enc7Toggling_eq_enc7 _, enc7Columns_eq_enc7 _⟩

/-- Settles O23: ENC_NIB drives `enc7`, the one container that meets the contract. -/
theorem encNibGivesTheOnlyEvenParityCodeword : Obligations.EncNibGivesTheOnlyEvenParityCodeword := fun a b s =>
  ⟨_, _, exec_encNib a b s, State.sampled_results _ _ _, fun c => isCodewordOf_iff _ c⟩

/-- A flip of bit 7 is masked away (40_nibble_codec.md R58). -/
theorem xor_bit7_mask : ∀ c : Byte, (c ^^^ 0x80#8) &&& 0x7F#8 = c &&& 0x7F#8 := by decide +kernel

/-- Settles O25: the outputs are those of the masked container, which the flip of bit 7 does not change. -/
theorem decNibIgnoresBit7AndAnswersANibble : Obligations.DecNibIgnoresBit7AndAnswersANibble := by
  intro c b s
  have sameOutputs : decNibOutputs (c ^^^ 0x80#8) = decNibOutputs c := by
    rw [← decNibOutputs_mask, xor_bit7_mask, decNibOutputs_mask]
  have flipped := exec_decNib (c ^^^ 0x80#8) b s
  rw [sameOutputs] at flipped
  refine ⟨_, _, _, exec_decNib c b s, State.sampled_results _ _ _, flipped, State.sampled_results _ _ _,
    (congrArg Outputs.y0 sameOutputs).symm, rfl, ?_⟩
  rw [Outputs.seen_y0, decNibOutputs, dec4_eq_widen_tableNibble, widen_toNat]
  exact (tableNibble c).isLt

/-- No single flip of one of the seven bits reaches the answer (40_nibble_codec.md R60). -/
theorem tableNibble_singleFlip : ∀ k : Fin 7, tableNibble (1#8 <<< k.val) = 0x0#4 := by decide

/-- The class of a single flip: bits 6, 5, 3 are the parity bits (40_nibble_codec.md R59, R60). -/
theorem cls_singleFlip : ∀ k : Fin 7, (0b00#2 ++ cls (1#8 <<< k.val) : Status) =
    if k.val = 6 ∨ k.val = 5 ∨ k.val = 3 then 0x2#4 else 0x1#4 := by decide

/-- Setting bit 7 of a codeword is flipping it. -/
theorem enc7_or_bit7 : ∀ n : Nibble, enc7 n ||| 0x80#8 = enc7 n ^^^ 0x80#8 := by decide

/-- Settles O26: the four clauses are the error patterns 0, none, a single bit, and bit 7. -/
theorem singleErrorsAreCorrected : Obligations.SingleErrorsAreCorrected := by
  intro n b s
  refine ⟨?roundTrip, syn_enc7 n, fun k => ?singleFlip, ?bit7⟩
  case roundTrip =>
    refine ⟨_, exec_encNib_widen n b s, _, State.sampled_results _ _ _, _, exec_decNib_enc7 n b _, ?_⟩
    rw [State.sampled_results, State.sampled_results, State.sampled_build, List.append_assoc, List.singleton_append]
  case singleFlip =>
    rw [← cls_singleFlip]
    exact ⟨_, exec_decNib_corrected (tableNibble_singleFlip k) n b s, State.sampled_results _ _ _⟩
  case bit7 =>
    rw [enc7_or_bit7]
    exact ⟨_, exec_decNib_corrected (by decide) n b s, State.sampled_results _ _ _⟩

/-- Two or more flips of the seven bits reach the answer. -/
theorem tableNibble_ne_zero_of_weight {e : Byte} (h7 : e.getLsbD 7 = false) (hw : 2 ≤ weight e) :
    tableNibble e ≠ 0x0#4 := by
  have mask : ∀ e : Byte, e.getLsbD 7 = false → e &&& 0x7F#8 = e := by decide +kernel
  intro h
  have := (tableNibble_eq_zero_iff e).mp h
  rw [mask e h7] at this
  omega

/-- The code's least distance is 3 (40_nibble_codec.md R61). -/
theorem weight_enc7_ne_two : ∀ m : Nibble, weight (enc7 m) ≠ 2 := by decide

theorem weight_enc7_zero : weight (enc7 0x0#4) = 0 := by decide

/-- Without bit 7, flips keep every group even exactly when they are a codeword's bits (40_nibble_codec.md R61). -/
theorem syn_number_eq_zero_iff {e : Byte} (h7 : e.getLsbD 7 = false) :
    (syn e).number = 0b000#3 ↔ ∃ m : Nibble, e = enc7 m := by
  constructor
  · exact fun h => ⟨_, eq_enc7_of_syn_eq_zero e h7 h⟩
  · rintro ⟨m, rfl⟩
    rw [syn_enc7]
    rfl

/-- No class signals a codeword. -/
theorem cls_enc7 (m : Nibble) : cls (enc7 m) = 0b00#2 := by
  rw [cls, syn_enc7]
  rfl

/-- Settles O27: the answer is the nibble encoded exclusive-or the table's nibble of the flips, which is not 0. The
same answer without a status is that of the codeword of the nibble answered. The counts are computed. -/
theorem multiBitErrorsAreSilent : Obligations.MultiBitErrorsAreSilent := by
  refine ⟨fun n e b s h7 hw => ?_, by decide +kernel, by decide⟩
  refine ⟨_, _, exec_decNib_enc7_xor n e b s, State.sampled_results _ _ _, ?table, ?wrong, ?two, ?codeword, ?undetected,
    ?unsignalled⟩
  case table => rw [tableNibble_enc7_xor]
  case wrong =>
    intro h
    have same : n ^^^ tableNibble e = n ^^^ 0x0#4 := (widen_inj h).trans BitVec.xor_zero.symm
    exact tableNibble_ne_zero_of_weight h7 hw ((BitVec.xor_right_inj n).mp same)
  case two =>
    intro h2 h
    rw [syn_enc7_xor, syn_number_eq_zero_iff h7] at h
    obtain ⟨m, rfl⟩ := h
    exact weight_enc7_ne_two m h2
  case codeword =>
    rw [syn_enc7_xor, syn_number_eq_zero_iff h7]
    refine exists_congr fun m => ⟨fun h => ⟨?_, h⟩, And.right⟩
    rintro rfl
    rw [h, weight_enc7_zero] at hw
    omega
  case undetected =>
    rintro m rfl
    rw [tableNibble_enc7, cls_enc7_xor, cls_enc7]
    exact ⟨rfl, rfl⟩
  case unsignalled =>
    intro hport
    refine ⟨n ^^^ tableNibble e, _, exec_decNib_enc7 _ b s, ?_⟩
    simp only [State.sampled_results, statusIf, hport, Bool.false_eq_true, if_false]

/-- Settles O28: a codeword is within one flip of `a` exactly when the table answers 0 for the difference, that is when
its nibble is the table's. -/
theorem decNibAnswersTheNearestCodeword : Obligations.DecNibAnswersTheNearestCodeword := by
  intro a b s
  have near_iff : ∀ m : Nibble, weight ((enc7 m ^^^ a) &&& 0x7F#8) ≤ 1 ↔ m = tableNibble a := fun m => by
    rw [← tableNibble_eq_zero_iff, tableNibble_enc7_xor, BitVec.xor_eq_zero_iff]
  exact ⟨_, _, exec_decNib a b s, State.sampled_results _ _ _, tableNibble a, dec4_eq_widen_tableNibble a,
    (near_iff _).mpr rfl, fun m => (near_iff m).mp⟩

/-- One lane of a byte survives at most one flip of its seven bits. -/
theorem lowNibble_dec4_enc7_xor {e : Byte} (h : weight (e &&& 0x7F#8) ≤ 1) (n : Nibble) :
    lowNibble (dec4 (enc7 n ^^^ e)) = n := by
  rw [dec4_enc7_xor, lowNibble_widen, (tableNibble_eq_zero_iff e).mpr h, BitVec.xor_zero]

/-- What DEC_BYTE samples of two codewords with at most one of the seven bits flipped in each. -/
theorem exec_decByte_corrected {e f : Byte} (he : weight (e &&& 0x7F#8) ≤ 1) (hf : weight (f &&& 0x7F#8) ≤ 1)
    (h l : Nibble) (s : State) :
    exec (.decByte (enc7 h ^^^ e) (enc7 l ^^^ f)) s = .next (s.sampled ⟨0x3#4, enc7 h ^^^ e, enc7 l ^^^ f⟩
      (Outputs.seen ⟨h ++ l, 0x00#8, cls e ++ cls f⟩ s.build)) := by
  rw [exec_decByte, decByteOutputs, lowNibble_dec4_enc7_xor he, lowNibble_dec4_enc7_xor hf, cls_enc7_xor, cls_enc7_xor]

theorem highNibble_append_lowNibble : ∀ x : Byte, highNibble x ++ lowNibble x = x := by decide +kernel

/-- Settles O29: each lane decodes to its own nibble, and the two nibbles are the byte. -/
theorem byteSurvivesOneErrorPerCodeword : Obligations.ByteSurvivesOneErrorPerCodeword := fun x b _ _ s he hf =>
  ⟨_, _, _, _, exec_encByte x b s, State.sampled_results _ _ _,
    exec_decByte_corrected he hf (highNibble x) (lowNibble x) _, List.append_assoc s.results [_] [_],
    highNibble_append_lowNibble x, rfl⟩

/-- A single flip's syndrome, read from `s3` to `s1`, is its position (40_nibble_codec.md R55). -/
theorem syn_singleFlip_position : ∀ k : Fin 7,
    4 * (syn (1#8 <<< k.val)).s3.toNat + 2 * (syn (1#8 <<< k.val)).s2.toNat + (syn (1#8 <<< k.val)).s1.toNat =
      7 - k.val := by decide

/-- Settles O24: the codeword drops out of the syndrome, and each of the seven single flips has its position. -/
theorem syndromeDependsOnTheErrorOnly : Obligations.SyndromeDependsOnTheErrorOnly := by
  refine ⟨syn_number, syn_enc7_xor, fun n k => ?_⟩
  rw [syn_enc7_xor]
  exact syn_singleFlip_position k

end Sys2Proof.Machine
end

section
/-! What the byte operations and the reserved selects answer, lane by lane (41_byte_codec.md R64 to R69). -/

namespace Sys2Proof.Machine

open Sys2Proof.Spec

theorem exec_decByteSingle (a b : Byte) (s : State) :
    exec (.decByteSingle a b) s =
      .next (s.sampled ⟨0x4#4, a, b⟩ ((decByteSingleOutputs a).seen s.build)) := transact_eq _ _ s

theorem exec_reserved5 (a b : Byte) (s : State) :
    exec (.reserved5 a b) s = .next (s.sampled ⟨0x5#4, a, b⟩ (reservedOutputs.seen s.build)) := transact_eq _ _ s

theorem exec_reserved6To7 (op : OpField) (a b : Byte) (s : State) :
    exec (.reserved6To7 op a b) s = .next (s.sampled ⟨op, a, b⟩ (reservedOutputs.seen s.build)) := transact_eq _ _ s

theorem exec_reserved8ToF (op : OpField) (a b : Byte) (s : State) :
    exec (.reserved8ToF op a b) s = .next (s.sampled ⟨op, a, b⟩ (reservedOutputs.seen s.build)) := transact_eq _ _ s

/-- Whatever reserved row a word's select is in, its operation drives the word's own fields and gives the zeros. -/
theorem exec_decode_reserved {op : OpField} (h : 5 ≤ op.toNat) (a b : Byte) (s : State) :
    exec (decode (pack op a b)) s = .next (s.sampled ⟨op, a, b⟩ (reservedOutputs.seen s.build)) := by
  rw [decode_pack]
  obtain rfl | ⟨-, -, hrow⟩ | ⟨-, -, hrow⟩ := op_reserved_rows op h
  · exact exec_reserved5 a b s
  · rw [decodeFields_op67 hrow, exec_reserved6To7]
  · rw [decodeFields_op8F hrow, exec_reserved8ToF]

/-- The low half of a decoded container is the correction table's nibble (40_nibble_codec.md R56 to R58). -/
theorem lowNibble_dec4 (c : Byte) : lowNibble (dec4 c) = tableNibble c := by
  rw [dec4_eq_widen_tableNibble, lowNibble_widen]

theorem dec4_toNat_lt (c : Byte) : (dec4 c).toNat < 16 := by
  rw [dec4_eq_widen_tableNibble, widen_toNat]
  exact (tableNibble c).isLt

/-- The source's way to put two nibbles side by side (41_byte_codec.md R66). -/
theorem append_eq_shiftLeft_or_widen : ∀ h l : Nibble, h ++ l = (widen h <<< 4) ||| widen l := by decide

/-- DEC_BYTE's value is the correction table's two nibbles (40_nibble_codec.md R56, 41_byte_codec.md R66). -/
theorem decByteOutputs_y0 (a b : Byte) : (decByteOutputs a b).y0 = tableNibble a ++ tableNibble b := by
  rw [decByteOutputs, lowNibble_dec4, lowNibble_dec4]

/-- DEC_BYTE undoes ENC_BYTE (41_byte_codec.md R65, R66). -/
theorem decByteOutputs_encByteOutputs_y0 (x : Byte) :
    (decByteOutputs (encByteOutputs x).y0 (encByteOutputs x).y1).y0 = x := by
  simp only [decByteOutputs_y0, encByteOutputs, tableNibble_enc7, highNibble_append_lowNibble]

/-- Settles O15: one sampled transaction, and both codewords meet the parity contract. -/
theorem encByteResult : Obligations.EncByteResult := fun a b s =>
  ⟨rfl, by simp only [opcodeTable, List.mem_cons, true_or, or_true], exec_encByte a b s, enc7_isCodewordOf _,
    enc7_isCodewordOf _⟩

/-- Settles O16: one sampled transaction whose two nibbles are the table's, and each lane decodes its own codeword. -/
theorem decByteResult : Obligations.DecByteResult := by
  refine fun a b s => ⟨rfl, by simp only [opcodeTable, List.mem_cons, true_or, or_true],
    ⟨_, exec_decByte a b s, decByteOutputs_y0 a b, ?shifted⟩, fun x c => ?roundTrip⟩
  case shifted =>
    rw [dec4_eq_widen_tableNibble, dec4_eq_widen_tableNibble, ← append_eq_shiftLeft_or_widen]
    exact decByteOutputs_y0 a b
  case roundTrip =>
    refine ⟨_, _, _, exec_encByte x c s, State.sampled_results _ _ _, exec_decByte _ _ _, ?_⟩
    rw [State.sampled_results, List.getLast?_concat]
    exact congrArg some (decByteOutputs_encByteOutputs_y0 x)

/-- Settles O17: the zero high codeword decodes to nibble 0 with class 00, so the outputs are DEC_NIB's. -/
theorem decByteSingleResult : Obligations.DecByteSingleResult := by
  intro a b c s
  have sameOutputs := decByteSingleOutputs_eq_decNibOutputs a
  refine ⟨rfl, by simp only [opcodeTable, List.mem_cons, true_or, or_true], _, exec_decByteSingle a b s, rfl,
    congrArg Outputs.y0 sameOutputs, ?status, ?nibble, ?asDecNib⟩
  case status => rw [sameOutputs]; rfl
  case nibble => rw [sameOutputs]; exact dec4_toNat_lt a
  case asDecNib => rw [sameOutputs]; exact exec_decNib a c s

/-- Settles O18: every reserved operation samples the zero outputs, and a word with a reserved select decodes to one. -/
theorem reservedOpsGiveZeros : Obligations.ReservedOpsGiveZeros :=
  ⟨exec_reserved5, exec_reserved6To7, exec_reserved8ToF, fun _ a b s h => exec_decode_reserved h a b s, by decide⟩

/-- Two driven statuses that agree on some field are seen to agree on it, with the port and without it. -/
theorem Outputs.seen_st_map_congr {α : Type} {f : Status → α} {o p : Outputs} (h : f o.st = f p.st) (bd : Build) :
    (o.seen bd).st.map f = (p.seen bd).st.map f := by
  cases hport : bd.statusPort <;> simp [hport, h]

/-! The four result fields of DEC_BYTE's lanes: the high ones from `a` alone, the low ones from `b` alone. -/

theorem decByteOutputs_y0_high (a b : Byte) : (decByteOutputs a b).y0.extractLsb' 4 4 = lowNibble (dec4 a) :=
  BitVec.extractLsb'_append_eq_left

theorem decByteOutputs_y0_low (a b : Byte) : (decByteOutputs a b).y0.extractLsb' 0 4 = lowNibble (dec4 b) :=
  BitVec.extractLsb'_append_eq_right

theorem decByteOutputs_st_high (a b : Byte) : (decByteOutputs a b).st.extractLsb' 2 2 = cls a :=
  BitVec.extractLsb'_append_eq_left

theorem decByteOutputs_st_low (a b : Byte) : (decByteOutputs a b).st.extractLsb' 0 2 = cls b :=
  BitVec.extractLsb'_append_eq_right

/-- ENC_BYTE's outputs for two given nibbles, one codeword for each. -/
theorem encByteOutputs_append (h l : Nibble) : encByteOutputs (h ++ l) = ⟨enc7 h, enc7 l, 0x0#4⟩ := by
  have high : highNibble (h ++ l) = h := BitVec.extractLsb'_append_eq_left
  have low : lowNibble (h ++ l) = l := BitVec.extractLsb'_append_eq_right
  rw [encByteOutputs, high, low]

/-- Settles O20: each result field of a lane is computed from its own operand, which the two transactions compared
share, and by the nibble codec. -/
theorem lanesAreIndependentNibbleCodecs : Obligations.LanesAreIndependentNibbleCodecs := by
  refine ⟨fun h l h' l' s => ?decode, fun h l b c d s => ?encode⟩
  case decode =>
    refine ⟨_, _, _, _, exec_decByte h l s, State.sampled_results _ _ _,
      ⟨_, exec_decByte h l' s, State.sampled_results _ _ _⟩, ⟨_, exec_decByte h' l s, State.sampled_results _ _ _⟩,
      ?y0High, ?stHigh, ?y0Low, ?stLow,
      _, _, _, _, exec_decNib h l s, State.sampled_results _ _ _, exec_decNib l h s, State.sampled_results _ _ _, rfl⟩
    case y0High => exact (decByteOutputs_y0_high h l).trans (decByteOutputs_y0_high h l').symm
    case stHigh =>
      exact Outputs.seen_st_map_congr ((decByteOutputs_st_high h l).trans (decByteOutputs_st_high h l').symm) _
    case y0Low => exact (decByteOutputs_y0_low h l).trans (decByteOutputs_y0_low h' l).symm
    case stLow =>
      exact Outputs.seen_st_map_congr ((decByteOutputs_st_low h l).trans (decByteOutputs_st_low h' l).symm) _
  case encode =>
    refine ⟨_, _, _, _, _, _, exec_encByte _ b s, State.sampled_results _ _ _, exec_encNib_widen h c s,
      State.sampled_results _ _ _, exec_encNib_widen l d s, State.sampled_results _ _ _, ?_, ?_⟩
    · rw [encByteOutputs_append, Outputs.seen_y0]
    · rw [encByteOutputs_append, Outputs.seen_y1]

/-- Two fields side by side, as a number. -/
theorem append_toNat_eq_mul_add {m n : Nat} (x : BitVec m) (y : BitVec n) :
    (x ++ y).toNat = x.toNat * 2 ^ n + y.toNat := by
  rw [BitVec.toNat_append, ← Nat.shiftLeft_add_eq_or_of_lt y.isLt, Nat.shiftLeft_eq]

theorem Result.p16_toNat (r : Result) : r.p16.toNat = r.y0.toNat * 0x100 + r.y1.toNat :=
  append_toNat_eq_mul_add r.y0 r.y1

theorem Result.p14_toNat (r : Result) : r.p14.toNat = (r.y0.toNat % 0x80) * 0x80 + r.y1.toNat % 0x80 := by
  have low7 : ∀ c : Byte, (c.extractLsb' 0 7).toNat = c.toNat % 0x80 := fun c => BitVec.extractLsb'_toNat ..
  rw [Result.p14, append_toNat_eq_mul_add, low7, low7,
    show 2 ^ 7 = 0x80 from rfl]

/-- The two codewords of 177 (90_conflicts.md C1). -/
theorem encByteOutputs_177 : encByteOutputs 177#8 = ⟨0x33#8, 0x69#8, 0x0#4⟩ := by decide

/-- The views of that pair of codewords, whatever the status (41_byte_codec.md R69). -/
theorem packedViews_33_69 (st : Option Status) :
    (Result.mk 0x33#8 0x69#8 st).p16 = 0x3369#16 ∧ (Result.mk 0x33#8 0x69#8 st).p14 = 0x19E9#14 := by
  have p16 : 0x33#8 ++ 0x69#8 = 0x3369#16 := by decide
  have p14 : (0x33#8).extractLsb' 0 7 ++ (0x69#8).extractLsb' 0 7 = 0x19E9#14 := by decide
  exact ⟨p16, p14⟩

/-- Settles O30: both views are two fields side by side; the codewords of 177 are computed. -/
theorem packedViewsOfACodewordPair : Obligations.PackedViewsOfACodewordPair := by
  refine ⟨fun r => ⟨r.p16_toNat, r.p14_toNat⟩, fun b s => ?_⟩
  refine ⟨_, _, exec_encByte _ b s, State.sampled_results _ _ _, ?_⟩
  rw [encByteOutputs_177]
  exact packedViews_33_69 _

end Sys2Proof.Machine
end

section
/-! No exceptions: every operation completes, every step answers next, and there is no fault (60_exceptions.md R70, R72). -/

namespace Sys2Proof.Machine

/-- Every operation, the reserved ones and the ill-formed terms included, completes with one more result
(60_exceptions.md R70, R72; log entry 13). -/
theorem exists_exec_next_result (i : Instr) (s : State) :
    ∃ (t : State) (r : Result), exec i s = .next t ∧ t.results = s.results ++ [r] := by
  obtain ⟨o, hexec⟩ := exec_sampled i s
  exact ⟨_, _, hexec, State.sampled_results _ _ _⟩

/-- Settles O11: an operation samples one transaction, a step is idle or runs an operation, and `Fault` has no
constructor. -/
theorem nothingEverFaults : Obligations.NothingEverFaults :=
  ⟨exists_exec_next_result, exists_step_next, nofun⟩

end Sys2Proof.Machine
end

section
/-! One step, and a run of all of the host's words: where it ends, and that it stays there
(70_reset_and_hazards.md R94, R95). -/

namespace Sys2Proof.Machine

/-- Settles O10: the step laws, with the word of a well-formed operation decoded back to it. -/
theorem stepRunsTheNextOperation : Obligations.StepRunsTheNextOperation := by
  refine ⟨step_present, fun s i rest hi h => ?_, step_idle⟩
  rw [step_present s (encode i) rest h, decodeOfEncodeIsIdentity i hi]

/-- As many steps as `ws` has words leave the last of them on the pins, or the old levels where there is none. -/
theorem run_present_pins (ws : List Command) {s t : State} {rest : List Command} (h : s.program = ws ++ rest)
    (hrun : Sys2Proof.core.run ws.length s = .next t) : t.pins = (ws.getLast?.map pinsOf).getD s.pins := by
  induction ws generalizing s with
  | nil => cases hrun; rfl
  | cons w ws ih =>
    rw [List.length_cons, run_succ _ _ _ (step_present_sampled s w (ws ++ rest) h)] at hrun
    rw [ih (State.sampled_program _ _ _) hrun, State.sampled_pins, List.getLast?_cons]
    cases ws.getLast? <;> rfl

/-- Settles O32: the run presents the whole list with nothing after it; the build is what no run changes. -/
theorem runYieldsCoreOfEveryWord : Obligations.RunYieldsCoreOfEveryWord := by
  intro s
  have hall : s.program = s.program ++ [] := (List.append_nil _).symm
  obtain ⟨t, hrun, hprogram, hresults⟩ := run_present_prefix s.program hall
  exact ⟨t, hrun, hresults, hprogram, noRunChangesTheBuild _ _ _ hrun, run_present_pins s.program hall hrun⟩

/-- A run goes on from where its first `m` steps took it. -/
theorem run_add_of_next (M : Host.Core) {m : Nat} (k : Nat) {s t : M.State} (h : M.run m s = .next t) :
    M.run (m + k) s = M.run k t := by
  induction m generalizing s with
  | zero => cases h; rw [Nat.zero_add]
  | succ m ih =>
    obtain ⟨u, hstep, hrun⟩ := exists_step_of_run_succ M h
    rw [Nat.add_right_comm, run_succ_of_next M _ s u hstep, ih hrun]

/-- With nothing left to present a run of any length changes nothing (log entry 5). -/
theorem run_idle {s : State} (h : s.program = []) (k : Nat) : Sys2Proof.core.run k s = .next s := by
  induction k with
  | zero => rfl
  | succ k ih => rw [run_succ k s s (step_idle s h), ih]

/-- Settles O33: past the last word the run is idle, and `j` steps present the first `j` words. -/
theorem runEndsAfterItsLastWord : Obligations.RunEndsAfterItsLastWord := by
  intro s k
  constructor
  · obtain ⟨t, hrun, hprogram, -⟩ := run_present_prefix s.program (List.append_nil s.program).symm
    rw [run_add_of_next Sys2Proof.core k hrun, hrun, run_idle hprogram]
  · intro j hj
    obtain ⟨t, hrun, hprogram, -⟩ := run_present_prefix (s.program.take j) (s.program.take_append_drop j).symm
    rw [List.length_take_of_le hj.le] at hrun
    exact ⟨t, hrun, hprogram⟩

end Sys2Proof.Machine
end

section
/-! The pins of a combinational implementation: what its events change, and what can be read before and after settling
(70_reset_and_hazards.md R86, R91, R92). -/

namespace Sys2Proof.Machine

@[simp] theorem Combinational.drive_build (p : Pins) (c : Combinational) : (c.drive p).build = c.build := rfl
@[simp] theorem Combinational.drive_pins (p : Pins) (c : Combinational) : (c.drive p).pins = p := rfl
@[simp] theorem Combinational.drive_settled (p : Pins) (c : Combinational) : (c.drive p).settled = false := rfl
@[simp] theorem Combinational.drive_reads (p : Pins) (c : Combinational) : (c.drive p).reads = c.reads := rfl

@[simp] theorem Combinational.settle_build (c : Combinational) : c.settle.build = c.build := rfl
@[simp] theorem Combinational.settle_pins (c : Combinational) : c.settle.pins = c.pins := rfl
@[simp] theorem Combinational.settle_settled (c : Combinational) : c.settle.settled = true := rfl

/-- Any number of input changes leaves the build and the counter of reads alone. -/
theorem Combinational.driveAll_frame (ps : List Pins) (c : Combinational) :
    (c.driveAll ps).build = c.build ∧ (c.driveAll ps).reads = c.reads := by
  induction ps generalizing c with
  | nil => exact ⟨rfl, rfl⟩
  | cons p ps ih => exact ih (c.drive p)

@[simp] theorem Combinational.driveAll_build (ps : List Pins) (c : Combinational) :
    (c.driveAll ps).build = c.build := (c.driveAll_frame ps).1
@[simp] theorem Combinational.driveAll_reads (ps : List Pins) (c : Combinational) :
    (c.driveAll ps).reads = c.reads := (c.driveAll_frame ps).2

theorem Combinational.read_of_settled {c : Combinational} (h : c.settled = true) :
    c.read = (coreFn c.build c.pins, c) := if_pos h

theorem Combinational.read_of_unsettled {c : Combinational} (h : c.settled = false) : c.read =
    ((linesOutputs (Config.unsettledLines c.reads)).seen c.build, { c with reads := c.reads + 1 }) :=
  if_neg (by simp [h])

theorem Combinational.sample_of_settled {c : Combinational} (h : c.settled = true) :
    c.sample = some (coreFn c.build c.pins) := by
  rw [sample, if_pos h, read_of_settled h]

theorem Combinational.sample_of_unsettled {c : Combinational} (h : c.settled = false) : c.sample = none :=
  if_neg (by simp [h])

/-- Settles O37: input changes leave the build and the counter alone, the last one stands, and settling is what tells
the two kinds of reads apart. -/
theorem settledPinsShowCore : Obligations.SettledPinsShowCore := by
  intro c ps p
  have hsettled := Combinational.settle_settled ((c.driveAll ps).drive p)
  have hunsettled := Combinational.drive_settled p (c.driveAll ps)
  refine ⟨?_, ?_, Combinational.sample_of_unsettled hunsettled, ?_⟩
  · simp [Combinational.sample_of_settled hsettled]
  · simp [Combinational.read_of_settled hsettled]
  · simp [Combinational.read_of_unsettled hunsettled]

/-- Settles O38: the step samples `core` of the word's pins, which is what the settled pins of the same build show. -/
theorem stepIsADutifulSampleAtThePins : Obligations.StepIsADutifulSampleAtThePins := by
  intro s w rest c h hbuild
  refine ⟨_, coreFn s.build (pinsOf w), step_present_sampled s w rest h, State.sampled_results _ _ _, ?_, rfl⟩
  rw [← hbuild]
  exact Combinational.sample_of_settled (Combinational.settle_settled _)

end Sys2Proof.Machine
end

section
/-! Pipelines: the registers after any number of edges, the delay by `LATENCY`, and the samples of a whole run
(70_reset_and_hazards.md R87, R90, R91). -/

namespace Sys2Proof.Machine

@[simp] theorem Pipe.edge_build (p : Pipe) (i : Pins) : (p.edge i).build = p.build := rfl
@[simp] theorem Pipe.edge_latency (p : Pipe) (i : Pins) : (p.edge i).latency = p.latency := rfl
@[simp] theorem Pipe.edge_captured (p : Pipe) (i : Pins) : (p.edge i).captured = p.captured + 1 := rfl

@[simp] theorem Pipe.edges_nil (p : Pipe) : p.edges [] = p := rfl
@[simp] theorem Pipe.edges_cons (p : Pipe) (i : Pins) (ins : List Pins) :
    p.edges (i :: ins) = (p.edge i).edges ins := rfl

theorem Pipe.edges_append (p : Pipe) (xs ys : List Pins) : p.edges (xs ++ ys) = (p.edges xs).edges ys := by
  induction xs generalizing p with
  | nil => rfl
  | cons i xs ih => exact ih (p.edge i)

/-- Edges change neither the build nor the latency, and each of them counts as a capture (log entry 20). -/
theorem Pipe.edges_frame (p : Pipe) (ins : List Pins) : (p.edges ins).build = p.build ∧
    (p.edges ins).latency = p.latency ∧ (p.edges ins).captured = p.captured + ins.length := by
  induction ins generalizing p with
  | nil => exact ⟨rfl, rfl, rfl⟩
  | cons i ins ih =>
    obtain ⟨hbuild, hlatency, hcaptured⟩ := ih (p.edge i)
    refine ⟨hbuild, hlatency, hcaptured.trans ?_⟩
    rw [edge_captured, List.length_cons, Nat.add_right_comm, Nat.add_assoc]

@[simp] theorem Pipe.edges_build (p : Pipe) (ins : List Pins) : (p.edges ins).build = p.build := (p.edges_frame ins).1
@[simp] theorem Pipe.edges_latency (p : Pipe) (ins : List Pins) : (p.edges ins).latency = p.latency :=
  (p.edges_frame ins).2.1
@[simp] theorem Pipe.edges_captured (p : Pipe) (ins : List Pins) :
    (p.edges ins).captured = p.captured + ins.length := (p.edges_frame ins).2.2

theorem Pipe.wellFormed_iff (p : Pipe) : p.wellFormed = true ↔ p.stages.length = p.latency + 1 := beq_iff_eq

/-- An edge keeps the newest `LATENCY + 1` results of what is in flight and its own capture. -/
theorem Pipe.edge_stages {p : Pipe} (h : p.wellFormed = true) (i : Pins) :
    (p.edge i).stages = (coreFn p.build i :: p.stages).take (p.latency + 1) := by
  have hlength := p.wellFormed_iff.mp h
  rw [List.take_succ_cons, edge, List.dropLast_eq_take, hlength, Nat.add_sub_cancel]

theorem Pipe.edge_wellFormed {p : Pipe} (h : p.wellFormed = true) (i : Pins) : (p.edge i).wellFormed = true := by
  have hlength := p.wellFormed_iff.mp h
  rw [wellFormed_iff, edge_stages h, List.length_take_of_le (by simp [hlength]), edge_latency]

theorem Pipe.edges_wellFormed {p : Pipe} (h : p.wellFormed = true) (ins : List Pins) :
    (p.edges ins).wellFormed = true := by
  induction ins generalizing p with
  | nil => exact h
  | cons i ins ih => exact ih (edge_wellFormed h i)

/-- After any edges the registers hold the newest `LATENCY + 1` of the captured results, newest first, and of what was
in flight before. -/
theorem Pipe.edges_stages {p : Pipe} (h : p.wellFormed = true) (ins : List Pins) :
    (p.edges ins).stages = ((ins.map (coreFn p.build)).reverse ++ p.stages).take (p.latency + 1) := by
  induction ins generalizing p with
  | nil => exact (List.take_of_length_le (p.wellFormed_iff.mp h).le).symm
  | cons i ins ih =>
    rw [edges_cons, ih (edge_wellFormed h i), edge_stages h, edge_build, edge_latency, List.map_cons,
      List.reverse_cons, List.append_assoc, List.singleton_append, List.take_append, List.take_append,
      List.take_take, Nat.min_eq_left (Nat.sub_le _ _)]

/-- The result of a capture is on the outputs `LATENCY` edges later, whatever was in flight and whatever came after
(70_reset_and_hazards.md R91): by then only it and the later captures are in the registers, and it is the oldest. -/
theorem Pipe.outputs_edges_cons {p : Pipe} (h : p.wellFormed = true) (i : Pins) {later : List Pins}
    (hlater : later.length = p.latency) : (p.edges (i :: later)).outputs = some (coreFn p.build i) := by
  have hcaptures : (((i :: later).map (coreFn p.build)).reverse).length = p.latency + 1 := by simp [hlater]
  rw [outputs, edges_stages h, List.take_left' hcaptures, List.getLast?_reverse, List.map_cons, List.head?_cons]

theorem Pipe.powerUp_wellFormed (bd : Build) (L : Nat) : (powerUp bd L).wellFormed = true := by
  simp [wellFormed_iff, powerUp]

theorem Pipe.sample_of_lt {p : Pipe} (h : p.latency < p.captured) : p.sample = p.outputs := if_pos h

theorem Pipe.sample_of_le {p : Pipe} (h : p.captured ≤ p.latency) : p.sample = none := if_neg (Nat.not_lt.mpr h)

/-- Settles O39: the delay and the shape hold of every well-formed pipe, and a pipe counts its edges from power-up. -/
theorem pipelineDelaysByItsLatency : Obligations.PipelineDelaysByItsLatency := by
  refine ⟨fun p i later h hlater => ⟨Pipe.outputs_edges_cons h i hlater, Pipe.edges_wellFormed h _⟩,
    fun bd L ins => ⟨Pipe.powerUp_wellFormed bd L, fun hins => Pipe.sample_of_le ?_⟩⟩
  rw [Pipe.edges_captured, Pipe.edges_latency]
  exact (Nat.zero_add _).trans_le hins

/-- The samples of a run that ends with the edge of `x`: that edge's own comes last. -/
theorem Pipe.samples_concat (p : Pipe) (xs : List Pins) (x : Pins) :
    p.samples (xs ++ [x]) = p.samples xs ++ (p.edges (xs ++ [x])).sample.toList := by
  induction xs generalizing p with
  | nil => exact List.append_nil _
  | cons i xs ih => rw [List.cons_append, samples, ih, samples, edges_cons, List.append_assoc]

/-- While a pipe fills, the host samples nothing (70_reset_and_hazards.md R87). -/
theorem Pipe.samples_eq_nil {p : Pipe} {ins : List Pins} (h : p.captured + ins.length ≤ p.latency) :
    p.samples ins = [] := by
  induction ins generalizing p with
  | nil => rfl
  | cons i ins ih =>
    rw [List.length_cons] at h
    have hsample : (p.edge i).sample = none := sample_of_le (by rw [edge_captured, edge_latency]; omega)
    have hrest : (p.edge i).samples ins = [] := ih (by rw [edge_captured, edge_latency]; omega)
    rw [samples, hsample, hrest, Option.toList_none, List.append_nil]

/-- A pipe that has captured nothing yet gives, over `ins` and `LATENCY` more edges, exactly the results of `ins` in
order. By induction from the end: the last of the edges is `LATENCY` edges after the last of `ins`, whose result it
shows, and the edges before it are `LATENCY` more than the rest of `ins`. -/
theorem Pipe.samples_append_flush {p : Pipe} (h : p.wellFormed = true) (hcaptured : p.captured = 0) (ins : List Pins)
    {flush : List Pins} (hflush : flush.length = p.latency) : p.samples (ins ++ flush) = ins.map (coreFn p.build) := by
  induction ins using List.reverseRecOn generalizing flush with
  | nil => exact samples_eq_nil (by simp [hcaptured, hflush])
  | append_singleton ins i ih =>
    obtain ⟨front, last, hfront⟩ : ∃ front last, i :: flush = front ++ [last] :=
      ⟨_, _, (List.dropLast_append_getLast (List.cons_ne_nil i flush)).symm⟩
    have hlength : front.length = p.latency := by
      simpa [hflush] using (congrArg List.length hfront).symm
    have hedges : ins ++ [i] ++ flush = ins ++ front ++ [last] := by simp [hfront]
    have hfilled : (p.edges (ins ++ front ++ [last])).latency < (p.edges (ins ++ front ++ [last])).captured := by
      rw [edges_latency, edges_captured, hcaptured, List.length_append, List.length_append, List.length_singleton,
        hlength]
      omega
    have hdue : (p.edges (ins ++ front ++ [last])).sample = some (coreFn p.build i) := by
      rw [sample_of_lt hfilled, List.append_assoc, ← hfront, edges_append,
        outputs_edges_cons (edges_wellFormed h ins) i (hflush.trans (p.edges_latency ins).symm), edges_build]
    rw [hedges, samples_concat, ih hlength, hdue, List.map_append]
    rfl

/-- Settles O40: from power-up the samples are `core` of each word in order, and so are the run's results. -/
theorem pipelineRefinesTheUntimedRun : Obligations.PipelineRefinesTheUntimedRun := by
  intro bd pins ws L flush hflush
  obtain ⟨t, hrun, -, hresults⟩ :=
    run_present_prefix ws (s := { build := bd, pins := pins, program := ws, results := [] }) (List.append_nil ws).symm
  refine ⟨t, hrun, ?_⟩
  rw [Pipe.samples_append_flush (Pipe.powerUp_wellFormed bd L) rfl _ hflush, hresults, List.map_map]
  rfl

end Sys2Proof.Machine
end

section
/-! The start of a run and the invariant its steps keep (10_state.md R24, 70_reset_and_hazards.md R85). -/

namespace Sys2Proof.Machine

/-- Both parts of the invariant speak of sampled results, so before the first sample it holds whatever the build and the
levels on the pins are (log entry 3). -/
theorem State.inv_of_results_eq_nil {s : State} (hresults : s.results = []) : s.Inv := by
  constructor
  · intro r hr
    exact absurd (hresults ▸ hr) List.not_mem_nil
  · intro r hlast
    rw [hresults, List.getLast?_nil] at hlast
    exact absurd hlast (Option.some_ne_none r).symm

/-- Settles O2: nothing has been sampled at reset, which is O1's last part. -/
theorem resetMeetsTheRunInvariant : Obligations.ResetMeetsTheRunInvariant := by
  obtain ⟨-, -, hresults⟩ := resetStartsAnEmptyRun
  exact State.inv_of_results_eq_nil hresults

end Sys2Proof.Machine
end
